-- ==== Sys2Proof/Word.lean ====
section
/-! DEFINITION. The word types of CMP-CORE: every value is an unsigned bit vector of a stated width (00_scope.md R8). -/

namespace Sys2Proof

/-- A Block, a Key or an IV: "unsigned 8-bit value" (R6). -/
abbrev Byte := BitVec 8

/-- A Nibble: "unsigned 4-bit value" (R6), an address and an entry of the SBOX space (R40). -/
abbrev Nibble := BitVec 4

/-- An address and an entry of the PMAP space, an MSB-first bit index of a byte (R40). -/
abbrev BitIndex := BitVec 3

/-- The command word of the `cmd` port (R61). -/
abbrev CmdWord := BitVec 32

/-- The response word of the `rsp` port (R66). -/
abbrev RspWord := BitVec 10

end Sys2Proof
end

