-- ==== Sys2Proof/Syntax.lean ====
section
/-! DEFINITION. The commands of CMP-CORE (30_encoding.md R62), and the assembler notation a command stream is written
in (R71, R72). -/

namespace Sys2Proof

/-- The mode of a call, the `mode` bit of START and the register MODE (10_state.md R23). -/
inductive ChainMode where
  /-- 0, the source's independent mode, ECB: each block on its own. -/
  | independent
  /-- 1, the source's chained mode, CBC: each block mixed with the previous cipher block. -/
  | chained
  deriving DecidableEq, Repr

/-- The direction of a call, the `dir` bit of START and the register DIR (R23). -/
inductive Direction where
  /-- 0. -/
  | encrypt
  /-- 1. It does not undo `encrypt` (R109, R125, R126). -/
  | decrypt
  deriving DecidableEq, Repr

/-- The commands, one constructor per row of the opcode table (R62). Each carries exactly the fields its command
reads; a field it does not read is ignored and so is no part of it (R63). -/
inductive Instr where
  /-- `SUB n`, opcode 0, S-box lookup on the whole 8-bit data field (R64, R83). -/
  | sub (data : Byte)
  /-- `PERM b`, opcode 1, bit permutation (R93). -/
  | perm (data : Byte)
  /-- `ENCB b, k`, opcode 2, one application of the round (R106). -/
  | encb (data key : Byte)
  /-- `START m, d, k, iv`, opcode 3, open a call (R111). -/
  | start (mode : ChainMode) (dir : Direction) (key iv : Byte)
  /-- `DATA b`, opcode 4, one element of the open call (R113). -/
  | data (byte : Byte)
  /-- `END`, opcode 5, close the call (R112). -/
  | endCall
  /-- The reserved opcode 6 (R68). -/
  | reserved6
  /-- The reserved opcode 7 (R68). -/
  | reserved7
  deriving DecidableEq, Repr

/-- One line of the assembler notation (R71). Its numbers are those the text holds, so they can be too wide for
their field: `AsmLine.wellFormed` says when they are not. -/
inductive AsmLine where
  | sub (n : Nat)
  | perm (b : Nat)
  | encb (b k : Nat)
  | start (m : ChainMode) (d : Direction) (k iv : Nat)
  | data (b : Nat)
  | endCall
  /-- "no command word: a cycle with `cmd_valid = 0`". -/
  | idle
  /-- "no command word: a cycle with `rst = 1`". -/
  | reset
  /-- `.word w`, "the literal 32-bit word". -/
  | word (w : Nat)
  deriving DecidableEq, Repr

/-- The pseudo-instructions, the source's four sequence operations (R72). -/
inductive Macro where
  | enci (k : Nat) (bs : List Nat)
  | deci (k : Nat) (bs : List Nat)
  | encc (k iv : Nat) (bs : List Nat)
  | decc (k iv : Nat) (bs : List Nat)
  deriving DecidableEq, Repr

end Sys2Proof
end

