-- ==== Sys2Proof/Machine/State.lean ====
section
/-! DEFINITION. The state of CMP-CORE: the five registers (10_state.md R21), the output ports (30_encoding.md R60), and
the host's cycles to come. -/

namespace Sys2Proof.Machine

/-- The whole architectural state, "five registers, 19 bits" (R21). -/
structure Regs where
  /-- ACTIVE: a sequence is open (R22). -/
  active : Bool
  /-- MODE of the open sequence (R23). -/
  mode : ChainMode
  /-- DIR of the open sequence (R23). -/
  dir : Direction
  /-- KEY of the open sequence; no response depends on it (R24). -/
  key : Byte
  /-- PREV, the source's `previous`: the chaining value (R25). -/
  prev : Byte
  deriving DecidableEq, Repr

/-- The reset state: "every register holds zero" (R33). -/
def Regs.reset : Regs where
  active := false
  mode := .independent
  dir := .encrypt
  key := 0x00#8
  prev := 0x00#8

/-- The output ports in one cycle (R60). -/
structure PortOut where
  /-- `rsp_valid`. -/
  rspValid : Bool
  /-- `rsp[9:0]`. -/
  rsp : RspWord
  deriving DecidableEq, Repr

/-- The ports of a cycle without a response: `rsp_valid = 0`, `rsp = 0` (R66, R70). -/
def PortOut.none : PortOut where
  rspValid := false
  rsp := 0#10

/-- The input ports, sampled once in a cycle (R60, R165). -/
structure ClockCycle where
  /-- `rst`. -/
  rst : Bool
  /-- `cmd_valid`. -/
  cmdValid : Bool
  /-- `cmd[31:0]`. -/
  cmd : CmdWord
  deriving DecidableEq, Repr

/-- The machine between two clock edges. `inputs` is the model's own field: the cycles the host has chosen and not
yet presented, "A run is a finite list of cycles chosen by the host" (R168). DESIGN CHOICE, log entries 1 and 2. -/
structure State where
  regs : Regs
  /-- The output ports of the cycle that the last edge ended. -/
  out : PortOut
  /-- The cycles to come, the next one first. -/
  inputs : List ClockCycle
  deriving DecidableEq, Repr

/-- The machine right after a reset: the registers of R33, no response (R160), and no cycle placed. -/
def State.reset : State where
  regs := Regs.reset
  out := PortOut.none
  inputs := []

def State.withRegs (s : State) (r : Regs) : State := { s with regs := r }
def State.withOut (s : State) (o : PortOut) : State := { s with out := o }
def State.withInputs (s : State) (cs : List ClockCycle) : State := { s with inputs := cs }

/-- The outcome of a command, the `status` field of its response (R67). -/
inductive Status where
  | ok
  | invalidInput
  | illegalCmd
  | protocol
  deriving DecidableEq, Repr

/-- Faults that stop the machine. There is none: the step is total (R20), and an error is a status in a response,
"its one effect" (R146). Nobody raises one, so no run ends in one. -/
inductive Fault where
  deriving DecidableEq, Repr

/-- Refusals of the model. -/
inductive Refusal where
  /-- An instruction without a meaning in the model, by its mnemonic. Raised by nobody: every arm of `exec` calls its
  meaning. Safe: it would stop a run, never invent a result. -/
  | notModelled (mnemonic : String)
  deriving DecidableEq, Repr

end Sys2Proof.Machine
end

