-- ==== Sys2Proof/Machine/Flags.lean ====
section
/-! DEFINITION. "There are no status flags, condition codes or predicates" (10_state.md R28): the outcome of a command
is the status field of its own response, encoded here (30_encoding.md R66, R67). -/

namespace Sys2Proof.Machine

/-- The status codes of R67. -/
def Status.code : Status → BitVec 2
  | .ok => 0b00#2
  | .invalidInput => 0b01#2
  | .illegalCmd => 0b10#2
  | .protocol => 0b11#2

/-- The response word: `status` in `rsp[9:8]`, `rdata` in `rsp[7:0]` (R66). -/
def rspWord (st : Status) (rdata : Byte) : RspWord := st.code ++ rdata

/-- The status field of a response word, `rsp[9:8]` (R66). -/
def rspStatus (w : RspWord) : BitVec 2 := w.extractLsb' 8 2

/-- The data field of a response word, `rsp[7:0]` (R66). -/
def rspData (w : RspWord) : Byte := w.extractLsb' 0 8

end Sys2Proof.Machine
end

