-- ==== Sys2Proof/Machine/Operands.lean ====
section
/-! DEFINITION. Operand assembly (30_encoding.md R64) and the two nibbles of a byte (42_round.md R101). The fields of the
command word are read in Decode.lean. -/

namespace Sys2Proof.Machine

/-- The left nibble, `(byte >> 4) & 0xF = byte[7:4]` (20_memory.md R49, R101). -/
def leftNibble (b : Byte) : Nibble := b.extractLsb' 4 4

/-- The right nibble, `byte & 0xF = byte[3:0]` (R49, R101). -/
def rightNibble (b : Byte) : Nibble := b.extractLsb' 0 4

/-- SUB's nibble operand: the data field is in range when its high nibble is 0, and the operand is then its low nibble
(R64); otherwise it is "a value outside [0,15]". -/
def nibbleOperand (n : Byte) : Option Nibble :=
  if leftNibble n = 0#4 then some (rightNibble n) else none

end Sys2Proof.Machine
end

