-- ==== Sys2Proof/Machine/Ops.lean ====
section
/-! DEFINITION. The shared operations: the two read-only spaces, the pure functions Sbox, Perm and Round, the response
of a command, raising an error, and the register transfers. -/

namespace Sys2Proof.Machine

/-! ### The two read-only spaces (20_memory.md R40, R41) -/

/-- The sixteen entries of SBOX, indexed 0..15 (40_sbox.md R80). -/
def sboxRom : Vector Nibble 16 :=
  #v[0xE#4, 0x4#4, 0xD#4, 0x1#4, 0x2#4, 0xF#4, 0xB#4, 0x8#4,
     0x3#4, 0xA#4, 0x6#4, 0xC#4, 0x5#4, 0x9#4, 0x0#4, 0x7#4]

/-- The eight entries of PMAP, indexed 0..7 (41_permutation.md R90). -/
def pmapRom : Vector BitIndex 8 :=
  #v[3#3, 0#3, 2#3, 4#3, 6#3, 1#3, 7#3, 5#3]

/-- `MemRead(SBOX, a)`: one whole entry, total on its 4-bit address (R44). -/
def memReadSbox (a : Nibble) : Nibble := sboxRom[a.toNat]'a.isLt

/-- `MemRead(PMAP, p)`: one whole entry, total on its 3-bit address (R44). -/
def memReadPmap (p : BitIndex) : BitIndex := pmapRom[p.toNat]'p.isLt

/-! ### The pure functions -/

/-- `Sbox(n) = S[n]` (R81). -/
def sbox (n : Nibble) : Nibble := memReadSbox n

/-- `Perm`, the eight wires of the circuit, most significant output bit first (R91). -/
def perm (b : Byte) : Byte :=
  BitVec.ofBoolListBE
    [b.getLsbD 4, b.getLsbD 7, b.getLsbD 5, b.getLsbD 3, b.getLsbD 1, b.getLsbD 6, b.getLsbD 0, b.getLsbD 2]

/-- `Perm` from the table: output position `p` takes input position `map[p]`, both MSB-first (R90). "A model may
implement `Perm` from the table or from the wiring list" (R42); the meanings use the wiring. -/
def permFromMap (b : Byte) : Byte :=
  BitVec.ofBoolListBE
    ([0#3, 1#3, 2#3, 3#3, 4#3, 5#3, 6#3, 7#3].map fun p => b.getMsbD (memReadPmap p).toNat)

/-- FMIX, steps 3 and 4 of the round: `feistelOut = left ^ substitutedRight` and
`combined = {feistelOut, substitutedRight}` (R103). The key is no input of it. -/
def fmix (left substitutedRight : Nibble) : Byte := (left ^^^ substitutedRight) ++ substitutedRight

/-- `Round(byte, key)`, the five steps of R104. The key is accepted and not consumed, and "Implementers must not
silently "fix" this" (R105). -/
def cipherRound (byte _key : Byte) : Byte :=
  perm (fmix (leftNibble byte) (sbox (rightNibble byte)))

/-! ### Responses and errors -/

/-- `rsp <- (STATUS, d)`: the response of this cycle, `rsp_valid = 1` (R66). -/
def respond (st : Status) (rdata : Byte) (s : State) : State :=
  s.withOut { rspValid := true, rsp := rspWord st rdata }

/-- Raising an error, the one shared operation (60_exceptions.md R140 to R142, R146): the response `(STATUS, 0x00)` and
no register written. Nothing is saved, no mode changes, there is no vector and so nothing to return from (R147). -/
def raise (st : Status) (s : State) : State := respond st 0x00#8 s

/-- A cycle without a response leaves `rsp_valid = 0` and `rsp = 0` (R66). -/
def noResponse (s : State) : State := s.withOut PortOut.none

/-! ### Register transfers -/

/-- START's load of all five registers (43_chaining.md R111). -/
def openCall (mode : ChainMode) (dir : Direction) (key iv : Byte) (s : State) : State :=
  s.withRegs { active := true, mode := mode, dir := dir, key := key, prev := iv }

/-- All five registers take their reset values: END (R112) and reset (70_reset_and_hazards.md R160). -/
def clearRegs (s : State) : State := s.withRegs Regs.reset

/-- `PREV <- v`, the only register a beat writes (R113, R116, R117). -/
def setPrev (v : Byte) (s : State) : State := s.withRegs { s.regs with prev := v }

/-! ### The two cycles without a command -/

/-- A cycle with `rst = 1`: the registers are reset, and there is no response (R160). -/
def resetCycle (s : State) : State := noResponse (clearRegs s)

/-- A cycle with `rst = 0` and `cmd_valid = 0`: "every register keeps its value" (R70). -/
def idleCycle (s : State) : State := noResponse s

end Sys2Proof.Machine
end

