-- ==== Sys2Proof/Machine/Chaining.lean ====
section
/-! DEFINITION. The block chaining controller: START, the four beats of DATA, and END (43_chaining.md R110 to R117). -/

namespace Sys2Proof.Machine

/-- START: Protocol while a sequence is open, which it does not touch; otherwise it opens one (R111). -/
def execStart (mode : ChainMode) (dir : Direction) (key iv : Byte) (s : State) : Host.Outcome State Fault Refusal :=
  if s.regs.active then .next (raise .protocol s)
  else .next (respond .ok 0x00#8 (openCall mode dir key iv s))

/-- The beat of `encryptIndependent`, MODE = 0, DIR = 0 (R114). -/
def beatIndependentEncrypt (b : Byte) (s : State) : State := respond .ok (cipherRound b s.regs.key) s

/-- The beat of `decryptIndependent`, MODE = 0, DIR = 1: "identical operation (same function applied)" (R115). -/
def beatIndependentDecrypt (b : Byte) (s : State) : State := respond .ok (cipherRound b s.regs.key) s

/-- The beat of `encryptChained`, MODE = 1, DIR = 0: the XOR is before the round and PREV takes the byte sent (R116). -/
def beatChainedEncrypt (b : Byte) (s : State) : State :=
  let cipherByte := cipherRound (b ^^^ s.regs.prev) s.regs.key
  respond .ok cipherByte (setPrev cipherByte s)

/-- The beat of `decryptChained`, MODE = 1, DIR = 1: the XOR is after the (forward) round and PREV takes the byte
consumed (R117). -/
def beatChainedDecrypt (b : Byte) (s : State) : State :=
  let plainByte := cipherRound b s.regs.key ^^^ s.regs.prev
  respond .ok plainByte (setPrev b s)

/-- The beat that MODE and DIR select (R113). -/
def beat (b : Byte) (s : State) : State :=
  match s.regs.mode, s.regs.dir with
  | .independent, .encrypt => beatIndependentEncrypt b s
  | .independent, .decrypt => beatIndependentDecrypt b s
  | .chained, .encrypt => beatChainedEncrypt b s
  | .chained, .decrypt => beatChainedDecrypt b s

/-- DATA: Protocol when no sequence is open, otherwise the beat (R113). -/
def execData (byte : Byte) (s : State) : Host.Outcome State Fault Refusal :=
  if s.regs.active then .next (beat byte s) else .next (raise .protocol s)

/-- END: Protocol when no sequence is open, otherwise all five registers are cleared (R112). -/
def execEndCall (s : State) : Host.Outcome State Fault Refusal :=
  if s.regs.active then .next (respond .ok 0x00#8 (clearRegs s)) else .next (raise .protocol s)

end Sys2Proof.Machine
end

