-- ==== Sys2Proof/Machine/Permutation.lean ====
section
/-! DEFINITION. The PERM command (41_permutation.md R93). -/

namespace Sys2Proof.Machine

/-- PERM: `OK Perm(b)`; no register is written (R93). -/
def execPerm (data : Byte) (s : State) : Host.Outcome State Fault Refusal :=
  .next (respond .ok (perm data) s)

end Sys2Proof.Machine
end

