-- ==== Sys2Proof/Machine/Reserved.lean ====
section
/-! DEFINITION. The two reserved opcodes: IllegalCmd, an open sequence stays open (30_encoding.md R68, 60_exceptions.md
R141). -/

namespace Sys2Proof.Machine

/-- Opcode 6 (R68). -/
def execReserved6 (s : State) : Host.Outcome State Fault Refusal := .next (raise .illegalCmd s)

/-- Opcode 7 (R68). -/
def execReserved7 (s : State) : Host.Outcome State Fault Refusal := .next (raise .illegalCmd s)

end Sys2Proof.Machine
end

