-- ==== Sys2Proof/Machine/Round.lean ====
section
/-! DEFINITION. The ENCB command (42_round.md R106). -/

namespace Sys2Proof.Machine

/-- ENCB: `OK Round(b, k)`; no register is read or written, KEY and PREV among them (R106). -/
def execEncb (data key : Byte) (s : State) : Host.Outcome State Fault Refusal :=
  .next (respond .ok (cipherRound data key) s)

end Sys2Proof.Machine
end

