-- ==== Sys2Proof/Machine/Sbox.lean ====
section
/-! DEFINITION. The SUB command (40_sbox.md R83). -/

namespace Sys2Proof.Machine

/-- SUB: `OK zext_8(Sbox(n[3:0]))` when `n[7:4] = 0`, InvalidInput otherwise; no register is written (R83). -/
def execSub (data : Byte) (s : State) : Host.Outcome State Fault Refusal :=
  match nibbleOperand data with
  | some n => .next (respond .ok ((sbox n).setWidth 8) s)
  | none => .next (raise .invalidInput s)

end Sys2Proof.Machine
end

