-- ==== Sys2Proof/Machine/Dispatch.lean ====
section
/-! DEFINITION. One arm per command of the opcode map (30_encoding.md R62, R65). -/

namespace Sys2Proof.Machine

/-- The meaning of a command in one cycle. -/
def exec (i : Instr) (s : State) : Host.Outcome State Fault Refusal :=
  match i with
  | .sub data => Sys2Proof.Machine.execSub data s
  | .perm data => Sys2Proof.Machine.execPerm data s
  | .encb data key => Sys2Proof.Machine.execEncb data key s
  | .start mode dir key iv => Sys2Proof.Machine.execStart mode dir key iv s
  | .data byte => Sys2Proof.Machine.execData byte s
  | .endCall => Sys2Proof.Machine.execEndCall s
  | .reserved6 => Sys2Proof.Machine.execReserved6 s
  | .reserved7 => Sys2Proof.Machine.execReserved7 s

end Sys2Proof.Machine
end

