-- ==== Sys2Proof/WellFormed.lean ====
section
/-! DEFINITION. Which terms of the syntax are well formed. An `Instr` always is: each operand's type is its field's
width, and every value of every field is legal (30_encoding.md R64, R65); an out-of-range SUB operand is a command that
gets INVALID_INPUT, not an ill-formed one. What can be ill formed is assembler text, whose numbers may not fit. -/

namespace Sys2Proof

/-- "an 8-bit value": the range of a Block, a Key or an IV (R8, R71). -/
def isByteValue (n : Nat) : Bool := n < 2 ^ 8

/-- "the literal 32-bit word" (R71). -/
def isWordValue (n : Nat) : Bool := n < 2 ^ 32

/-- Every number of the line fits its field (R71). `SUB n` takes "an 8-bit value", in range for the S-box or not. -/
def AsmLine.wellFormed : AsmLine → Bool
  | .sub n => isByteValue n
  | .perm b => isByteValue b
  | .encb b k => isByteValue b && isByteValue k
  | .start _ _ k iv => isByteValue k && isByteValue iv
  | .data b => isByteValue b
  | .endCall => true
  | .idle => true
  | .reset => true
  | .word w => isWordValue w

/-- Every number of the macro is a byte (R72). -/
def Macro.wellFormed : Macro → Bool
  | .enci k bs => isByteValue k && bs.all isByteValue
  | .deci k bs => isByteValue k && bs.all isByteValue
  | .encc k iv bs => isByteValue k && isByteValue iv && bs.all isByteValue
  | .decc k iv bs => isByteValue k && isByteValue iv && bs.all isByteValue

end Sys2Proof
end

