-- ==== Sys2Proof/Decode.lean ====
section
/-! DEFINITION. Decoding a command word, and after it encoding one (30_encoding.md R61 to R65). The decoder is total on
32-bit words: "every 32-bit word with `cmd_valid = 1` and `rst = 0` gets exactly one response" (R65). -/

namespace Sys2Proof

/-! ### The fields of the command word (R61) -/

/-- `cmd[2:0]`. -/
def opField (w : CmdWord) : BitVec 3 := w.extractLsb' 0 3
/-- `cmd[3]`. -/
def modeField (w : CmdWord) : BitVec 1 := w.extractLsb' 3 1
/-- `cmd[4]`. -/
def dirField (w : CmdWord) : BitVec 1 := w.extractLsb' 4 1
/-- `cmd[15:8]`. -/
def dataField (w : CmdWord) : Byte := w.extractLsb' 8 8
/-- `cmd[23:16]`. -/
def keyField (w : CmdWord) : Byte := w.extractLsb' 16 8
/-- `cmd[31:24]`. -/
def ivField (w : CmdWord) : Byte := w.extractLsb' 24 8

/-- "0 = independent (ECB), 1 = chained (CBC)" (R61). -/
def ChainMode.ofBit (b : BitVec 1) : ChainMode := if b = 1#1 then .chained else .independent
/-- The bit of a mode (R61). -/
def ChainMode.toBit : ChainMode → BitVec 1
  | .independent => 0#1
  | .chained => 1#1

/-- "0 = encrypt, 1 = decrypt" (R61). -/
def Direction.ofBit (b : BitVec 1) : Direction := if b = 1#1 then .decrypt else .encrypt
/-- The bit of a direction (R61). -/
def Direction.toBit : Direction → BitVec 1
  | .encrypt => 0#1
  | .decrypt => 1#1

/-! ### The decoder -/

/-- The opcode map: `op` selects the command, "nothing else takes part in decoding" (R62), and the command's fields
are read from their fixed places (R61, R64). -/
def decode (w : CmdWord) : Instr :=
  match (opField w).toFin with
  | 0 => .sub (dataField w)
  | 1 => .perm (dataField w)
  | 2 => .encb (dataField w) (keyField w)
  | 3 => .start (ChainMode.ofBit (modeField w)) (Direction.ofBit (dirField w)) (keyField w) (ivField w)
  | 4 => .data (dataField w)
  | 5 => .endCall
  | 6 => .reserved6
  | 7 => .reserved7

/-- Why some bits are no command: there is "one command length, 32 bits, and one format" (R61). -/
inductive DecodeReject where
  /-- More than 32 bits were offered. -/
  | longerThanACommandWord
  deriving DecidableEq, Repr

/-- Decode `nbits` bits given as a number, bit 0 the least significant; the bits above them are 0. -/
def decodeBits (nbits w : Nat) : Except DecodeReject Instr :=
  if nbits ≤ 32 then .ok (decode (BitVec.ofNat 32 (w % 2 ^ nbits))) else .error .longerThanACommandWord

/-- The instruction the decoder reads from a row of the opcode table. A row is one 32-bit word, and "no rule reads
the command word as bytes" (R50), so its bits are the word's bits. -/
def decodeTableWord (nbits w : Nat) : Option Instr :=
  match decodeBits nbits w with
  | .ok i => some i
  | .error _ => none

/-! ### The encoder -/

/-- The one command format, the most significant field first; `cmd[7:5]` driven to 0 (R61, R69). -/
def commandWord (iv key data : Byte) (dir mode : BitVec 1) (op : BitVec 3) : CmdWord :=
  iv ++ key ++ data ++ 0#3 ++ dir ++ mode ++ op

/-- The opcode of a command (R62). -/
def Instr.opcode : Instr → BitVec 3
  | .sub _ => 0#3
  | .perm _ => 1#3
  | .encb _ _ => 2#3
  | .start _ _ _ _ => 3#3
  | .data _ => 4#3
  | .endCall => 5#3
  | .reserved6 => 6#3
  | .reserved7 => 7#3

/-- The word of a command: its fields in their places, "A field that the mnemonic does not name is assembled as zero"
(R71). -/
def encode : Instr → CmdWord
  | .sub data => commandWord 0 0 data 0 0 0#3
  | .perm data => commandWord 0 0 data 0 0 1#3
  | .encb data key => commandWord 0 key data 0 0 2#3
  | .start mode dir key iv => commandWord iv key 0 dir.toBit mode.toBit 3#3
  | .data byte => commandWord 0 0 byte 0 0 4#3
  | .endCall => commandWord 0 0 0 0 0 5#3
  | .reserved6 => commandWord 0 0 0 0 0 6#3
  | .reserved7 => commandWord 0 0 0 0 0 7#3

/-- The bits of the command word that a command reads: `op` and the "fields read" of R62; all others are ignored
(R63, R69). -/
def Instr.readMask : Instr → CmdWord
  | .sub _ => 0x0000FF07#32
  | .perm _ => 0x0000FF07#32
  | .encb _ _ => 0x00FFFF07#32
  | .start _ _ _ _ => 0xFFFF001F#32
  | .data _ => 0x0000FF07#32
  | .endCall => 0x00000007#32
  | .reserved6 => 0x00000007#32
  | .reserved7 => 0x00000007#32

end Sys2Proof
end

