-- ==== Sys2Proof/Machine/Fetch.lean ====
section
/-! DEFINITION. Taking the next cycle from the host. CMP-CORE fetches no instructions (10_state.md R26): the host presents
them, and what a cycle holds is read in the order of 30_encoding.md R65 and 60_exceptions.md R145. -/

namespace Sys2Proof.Machine

/-- What a cycle asks for. -/
inductive CycleKind where
  /-- `rst = 1`; a command in the same cycle is ignored (R160). -/
  | reset
  /-- `rst = 0`, `cmd_valid = 0` (R70). -/
  | noCommand
  /-- `rst = 0`, `cmd_valid = 1`. -/
  | command (i : Instr)
  deriving DecidableEq, Repr

/-- The first two checks of R145, then decoding (R65). -/
def ClockCycle.kind (c : ClockCycle) : CycleKind :=
  if c.rst then .reset else if c.cmdValid then .command (decode c.cmd) else .noCommand

/-- A cycle that presents a command word. -/
def ClockCycle.present (w : CmdWord) : ClockCycle where
  rst := false
  cmdValid := true
  cmd := w

/-- A cycle with `cmd_valid = 0`, `IDLE` (R71). -/
def ClockCycle.idle : ClockCycle where
  rst := false
  cmdValid := false
  cmd := 0#32

/-- A cycle with `rst = 1`, `RESET` (R71). -/
def ClockCycle.reset : ClockCycle where
  rst := true
  cmdValid := false
  cmd := 0#32

/-- The next cycle of the host and the state with it taken. Past the listed cycles the host presents nothing, a
no-command cycle (DESIGN CHOICE, log entry 3). -/
def fetch (s : State) : CycleKind × State :=
  match s.inputs with
  | [] => (ClockCycle.idle.kind, s)
  | c :: rest => (c.kind, s.withInputs rest)

end Sys2Proof.Machine
end

