-- ==== Sys2Proof/Machine/Step.lean ====
section
/-! DEFINITION. One step, one clock cycle (10_state.md R20), and placing the next command word. -/

namespace Sys2Proof.Machine

/-- One rising edge of `clk`: the host's next cycle decides what happens (R20, 60_exceptions.md R145). -/
def step (s : State) : Host.Outcome State Fault Refusal :=
  match fetch s with
  | (.reset, t) => .next (resetCycle t)
  | (.noCommand, t) => .next (idleCycle t)
  | (.command i, t) => exec i t

/-- `s` with one cycle that presents the word put before the host's cycles to come, so that the next step runs it. -/
def State.withFetchWord (s : State) (nbits w : Nat) : State :=
  s.withInputs (ClockCycle.present (BitVec.ofNat 32 (w % 2 ^ nbits)) :: s.inputs)

end Sys2Proof.Machine
end

