-- ==== Sys2Proof/Machine/Assembler.lean ====
section
/-! DEFINITION. What the assembler notation stands for (30_encoding.md R71, R72). -/

namespace Sys2Proof.Machine

/-- The 32-bit word of a line, the right column of R71's table; `none` for the two lines without a command word. -/
def asmWord : AsmLine → Option CmdWord
  | .sub n => some (BitVec.ofNat 32 (n <<< 8 ||| 0))
  | .perm b => some (BitVec.ofNat 32 (b <<< 8 ||| 1))
  | .encb b k => some (BitVec.ofNat 32 (k <<< 16 ||| b <<< 8 ||| 2))
  | .start m d k iv =>
    some (BitVec.ofNat 32 (iv <<< 24 ||| k <<< 16 ||| d.toBit.toNat <<< 4 ||| m.toBit.toNat <<< 3 ||| 3))
  | .data b => some (BitVec.ofNat 32 (b <<< 8 ||| 4))
  | .endCall => some 5#32
  | .idle => none
  | .reset => none
  | .word w => some (BitVec.ofNat 32 w)

/-- The cycle a line stands for (R71). -/
def asmCycle (l : AsmLine) : ClockCycle :=
  match asmWord l with
  | some w => ClockCycle.present w
  | none => if l = .reset then ClockCycle.reset else ClockCycle.idle

/-- One call: a START, one DATA per element, an END (R72). -/
def callLines (m : ChainMode) (d : Direction) (k iv : Nat) (bs : List Nat) : List AsmLine :=
  .start m d k iv :: (bs.map AsmLine.data ++ [.endCall])

/-- The expansion of a macro; the independent macros put 0x00 in the `iv` field (R72). -/
def expand : Macro → List AsmLine
  | .enci k bs => callLines .independent .encrypt k 0 bs
  | .deci k bs => callLines .independent .decrypt k 0 bs
  | .encc k iv bs => callLines .chained .encrypt k iv bs
  | .decc k iv bs => callLines .chained .decrypt k iv bs

end Sys2Proof.Machine
end

