-- ==== Sys2Proof/Machine/Sequence.lean ====
section
/-! DEFINITION. The four sequence functions of the source, "the normative definitions of what a call computes"
(43_chaining.md R119 to R122). -/

namespace Sys2Proof.Machine

/-- `EncInd(bs, k)` (R119). -/
def encInd (bs : List Byte) (k : Byte) : List Byte := bs.map fun b => cipherRound b k

/-- `DecInd(bs, k) = EncInd(bs, k)` (R120). -/
def decInd (bs : List Byte) (k : Byte) : List Byte := encInd bs k

/-- `EncCh(bs, k, previous)`: each cipher byte is the next `previous` (R121). -/
def encCh : List Byte → Byte → Byte → List Byte
  | [], _, _ => []
  | b :: bs, k, previous => cipherRound (b ^^^ previous) k :: encCh bs k (cipherRound (b ^^^ previous) k)

/-- `DecCh(cs, k, previous)`: each consumed cipher byte is the next `previous` (R122). -/
def decCh : List Byte → Byte → Byte → List Byte
  | [], _, _ => []
  | c :: cs, k, previous => (cipherRound c k ^^^ previous) :: decCh cs k c

/-- The function that a call with these START fields computes (R123). -/
def callResult (m : ChainMode) (d : Direction) (k iv : Byte) (bs : List Byte) : List Byte :=
  match m, d with
  | .independent, .encrypt => encInd bs k
  | .independent, .decrypt => decInd bs k
  | .chained, .encrypt => encCh bs k iv
  | .chained, .decrypt => decCh bs k iv

end Sys2Proof.Machine
end

