-- ==== Sys2Proof/Machine/Run.lean ====
section
/-! DEFINITION. Runs: what the host sees of a number of cycles (70_reset_and_hazards.md R168), and the parts of a command
stream that R123 speaks of. -/

namespace Sys2Proof.Machine

/-- `k` cycles, stopping at the first fault or refusal: the host's own `Host.Core.run` of this machine
(`run_eq_core_run` of Laws/Step.lean). -/
def run : Nat → State → Host.Outcome State Fault Refusal
  | 0, s => .next s
  | k + 1, s =>
    match step s with
    | .next t => run k t
    | .fault r => .fault r
    | .refused r => .refused r

/-- The output ports of the next `k` cycles, the first one first. -/
def outputs : Nat → State → List PortOut
  | 0, _ => []
  | k + 1, s =>
    match step s with
    | .next t => t.out :: outputs k t
    | .fault _ => []
    | .refused _ => []

/-- The response of a cycle, if it has one. -/
def PortOut.response? (o : PortOut) : Option RspWord := if o.rspValid then some o.rsp else Option.none

/-- The observable result of a run: "the list of responses, one per accepted command, in order" (R168). -/
def responses (k : Nat) (s : State) : List RspWord := (outputs k s).filterMap PortOut.response?

/-- START, DATA and END: the commands that depend on the controller's state (43_chaining.md R110, R118). -/
def chainCommand : Instr → Bool
  | .start _ _ _ _ => true
  | .data _ => true
  | .endCall => true
  | .sub _ => false
  | .perm _ => false
  | .encb _ _ => false
  | .reserved6 => false
  | .reserved7 => false

/-- The START, DATA or END command of a cycle, if it presents one. -/
def ClockCycle.chain? (c : ClockCycle) : Option Instr :=
  match c.kind with
  | .command i => if chainCommand i then some i else Option.none
  | .reset => Option.none
  | .noCommand => Option.none

/-- The commands of a call without what may stand between them: a START, one DATA per element, an END (R123). -/
def callCommands (m : ChainMode) (d : Direction) (k iv : Byte) (bs : List Byte) : List Instr :=
  .start m d k iv :: (bs.map Instr.data ++ [.endCall])

/-- The START, DATA and END commands of a stream, each with the response of its cycle. -/
def chainResponses (cs : List ClockCycle) (os : List PortOut) : List (Instr × RspWord) :=
  (cs.zip os).filterMap fun p => p.1.chain?.bind fun i => p.2.response?.map fun r => (i, r)

/-- The element a DATA command carries. -/
def dataByte? : Instr → Option Byte
  | .data b => some b
  | .sub _ => Option.none
  | .perm _ => Option.none
  | .encb _ _ => Option.none
  | .start _ _ _ _ => Option.none
  | .endCall => Option.none
  | .reserved6 => Option.none
  | .reserved7 => Option.none

/-- "the `rdata` bytes of the `n` DATA responses in order" (R123). -/
def dataResults (cs : List ClockCycle) (os : List PortOut) : List Byte :=
  (chainResponses cs os).filterMap fun p => (dataByte? p.1).map fun _ => rspData p.2

end Sys2Proof.Machine
end

