-- ==== Sys2Proof/Safety.lean ====
section
/-! DEFINITION. What the claims call a good state, a complete run and a conforming implementation. -/

namespace Sys2Proof.Safety

open Sys2Proof.Machine

/-- The idle invariant: an idle block is bit for bit the reset state (10_state.md R34). -/
abbrev IdleIsReset (s : State) : Prop := s.regs.active = false → s.regs = Regs.reset

/-- The output ports hold what R66 and R67 allow: nothing without a response, and data 0x00 with an error status. -/
abbrev OutputLegal (o : PortOut) : Prop :=
  (o.rspValid = false → o.rsp = 0#10) ∧ (rspStatus o.rsp ≠ Status.ok.code → rspData o.rsp = 0x00#8)

/-- A run is complete "when it ends in the idle state" (70_reset_and_hazards.md R168). -/
abbrev Complete (s : State) : Prop := s.regs.active = false

/-- A run of the machine: `s` is reached from reset when the host presents some cycles. -/
inductive Reachable : State → Prop where
  | start (cs : List ClockCycle) : Reachable (State.reset.withInputs cs)
  | step {s t : State} : Reachable s → Machine.step s = .next t → Reachable t

/-- The responses to a command stream presented after reset (R168). -/
def resultOf (cs : List ClockCycle) : List RspWord := responses cs.length (State.reset.withInputs cs)

/-- An implementation, seen as the responses it gives to each command stream, conforms "at the transaction level"
(R167). -/
def Conforms (implementation : List ClockCycle → List RspWord) : Prop := ∀ cs, implementation cs = resultOf cs

end Sys2Proof.Safety
end

