-- ==== Sys2Proof/Certificates/Slice0/Obligations.lean ====
section
/-! DEFINITION. The statements for the provers, from the numbered rules of the spec. Each is about every state, reached or
not, unless it says otherwise; none speaks of a program. That the host's cycles to come stand in `State.inputs` is the
model's choice (log entry 1), and that the ports of the last cycle stand in `State.out` is deduced (log entry 2); where a
statement's steps or outputs go past the listed cycles, those are no-command cycles by the model's choice (log entry 3). -/

open Sys2Proof Sys2Proof.Machine Sys2Proof.Safety

/-! ### Encoding -/

/-- R62: `op` alone selects the command, and each command's fields are the bits that R61 gives them. -/
def Obligations.OpcodeSelectsTheCommandAndItsFields : Prop :=
  ∀ w : CmdWord,
    (w.extractLsb' 0 3 = 0#3 → decode w = .sub (w.extractLsb' 8 8)) ∧
    (w.extractLsb' 0 3 = 1#3 → decode w = .perm (w.extractLsb' 8 8)) ∧
    (w.extractLsb' 0 3 = 2#3 → decode w = .encb (w.extractLsb' 8 8) (w.extractLsb' 16 8)) ∧
    (w.extractLsb' 0 3 = 3#3 → decode w =
      .start (if w.getLsbD 3 then .chained else .independent) (if w.getLsbD 4 then .decrypt else .encrypt)
        (w.extractLsb' 16 8) (w.extractLsb' 24 8)) ∧
    (w.extractLsb' 0 3 = 4#3 → decode w = .data (w.extractLsb' 8 8)) ∧
    (w.extractLsb' 0 3 = 5#3 → decode w = .endCall) ∧
    (w.extractLsb' 0 3 = 6#3 → decode w = .reserved6) ∧
    (w.extractLsb' 0 3 = 7#3 → decode w = .reserved7)

/-- No bit of an encoding is dropped: every command, at every value of its operands, comes back from its word. -/
def Obligations.DecodingAnEncodedCommandGivesItBack : Prop :=
  ∀ i : Instr, decode (encode i) = i

/-- The other direction: the words that mean a command are exactly those that agree with its encoding on the bits the
command reads; all other bits are free (R62, R63, R69). -/
def Obligations.AWordMeansACommandExactlyOnItsReadBits : Prop :=
  ∀ (w : CmdWord) (i : Instr), decode w = i ↔ w &&& i.readMask = encode i

/-- Words written out from R61 and 95_test_vectors.md section 2.5. -/
def Obligations.WrittenOutWordsDecodeToTheirCommands : Prop :=
  decode 0b00000000000000000000110100000000#32 = .sub 0x0D#8 ∧
  decode 0b00000000000000000101100100000001#32 = .perm 0x59#8 ∧
  decode 0b00000000101010101100110100000010#32 = .encb 0xCD#8 0xAA#8 ∧
  decode 0b10101010101010100000000000001011#32 = .start .chained .encrypt 0xAA#8 0xAA#8 ∧
  decode 0b00000000101010100000000000010011#32 = .start .independent .decrypt 0xAA#8 0x00#8 ∧
  decode 0b01011010001111000000000000001011#32 = .start .chained .encrypt 0x3C#8 0x5A#8 ∧
  decode 0b00000000000000001100110111100100#32 = .data 0xCD#8 ∧
  decode 0b00000000000000000000000000000101#32 = .endCall ∧
  decode 0b11111111111111111111111111111110#32 = .reserved6 ∧
  decode 0b11111111111111111111111111111111#32 = .reserved7

/-- R63 and R69: two words that agree on `op` and on the fields its command reads get the same response and the same
next state; and the `iv` field of an independent START is loaded, but no later response depends on it (the outputs compared
may go past the listed cycles, log entry 3). -/
def Obligations.FieldsNotReadChangeNothing : Prop :=
  (∀ (w v : CmdWord) (s : State) (rest : List ClockCycle),
    w.extractLsb' 0 3 = v.extractLsb' 0 3 →
    (w.extractLsb' 0 3 = 0#3 ∨ w.extractLsb' 0 3 = 1#3 ∨ w.extractLsb' 0 3 = 2#3 ∨ w.extractLsb' 0 3 = 4#3 →
      w.extractLsb' 8 8 = v.extractLsb' 8 8) →
    (w.extractLsb' 0 3 = 2#3 ∨ w.extractLsb' 0 3 = 3#3 → w.extractLsb' 16 8 = v.extractLsb' 16 8) →
    (w.extractLsb' 0 3 = 3#3 →
      w.getLsbD 3 = v.getLsbD 3 ∧ w.getLsbD 4 = v.getLsbD 4 ∧ w.extractLsb' 24 8 = v.extractLsb' 24 8) →
    step (s.withInputs (⟨false, true, w⟩ :: rest)) = step (s.withInputs (⟨false, true, v⟩ :: rest))) ∧
  ∀ (w v : CmdWord) (s : State) (rest : List ClockCycle) (n : Nat),
    w.extractLsb' 0 3 = 3#3 → w.getLsbD 3 = false → w.extractLsb' 0 24 = v.extractLsb' 0 24 →
    outputs n (s.withInputs (⟨false, true, w⟩ :: rest)) = outputs n (s.withInputs (⟨false, true, v⟩ :: rest))

/-- R71: each line assembles to the word of its command; `IDLE` and `RESET` carry none; the rule's examples. -/
def Obligations.AssemblerLinesAreTheEncodingsOfTheirCommands : Prop :=
  (∀ n, (AsmLine.sub n).wellFormed = true → asmWord (.sub n) = some (encode (.sub (BitVec.ofNat 8 n)))) ∧
  (∀ b, (AsmLine.perm b).wellFormed = true → asmWord (.perm b) = some (encode (.perm (BitVec.ofNat 8 b)))) ∧
  (∀ b k, (AsmLine.encb b k).wellFormed = true →
    asmWord (.encb b k) = some (encode (.encb (BitVec.ofNat 8 b) (BitVec.ofNat 8 k)))) ∧
  (∀ m d k iv, (AsmLine.start m d k iv).wellFormed = true →
    asmWord (.start m d k iv) = some (encode (.start m d (BitVec.ofNat 8 k) (BitVec.ofNat 8 iv)))) ∧
  (∀ b, (AsmLine.data b).wellFormed = true → asmWord (.data b) = some (encode (.data (BitVec.ofNat 8 b)))) ∧
  asmWord .endCall = some (encode .endCall) ∧
  (∀ w, (AsmLine.word w).wellFormed = true → ∃ v : CmdWord, asmWord (.word w) = some v ∧ v.toNat = w) ∧
  (∀ l w, asmWord l = some w → asmCycle l = ⟨false, true, w⟩) ∧
  ((asmCycle .idle).rst = false ∧ (asmCycle .idle).cmdValid = false ∧ (asmCycle .reset).rst = true) ∧
  (asmWord (.encb 0xCD 0xAA) = some 0x00AACD02#32 ∧
    asmWord (.start .chained .encrypt 0xAA 0xAA) = some 0xAAAA000B#32 ∧
    asmWord (.start .independent .decrypt 0xAA 0x00) = some 0x00AA0013#32 ∧
    asmWord (.data 0x99) = some 0x00009904#32 ∧ asmWord (.sub 0xD) = some 0x00000D00#32)

/-! ### The tables and the pure functions -/

/-- R80: the sixteen entries, in address order. -/
def Obligations.SboxRomHoldsItsSixteenEntries : Prop :=
  (List.range 16).map (fun a => memReadSbox (BitVec.ofNat 4 a)) =
    [0xE#4, 0x4#4, 0xD#4, 0x1#4, 0x2#4, 0xF#4, 0xB#4, 0x8#4, 0x3#4, 0xA#4, 0x6#4, 0xC#4, 0x5#4, 0x9#4, 0x0#4, 0x7#4]

/-- R82: Sbox is a bijection on the nibbles, and no nibble is its own image. -/
def Obligations.SboxIsABijectionWithoutFixedPoint : Prop :=
  (∀ m : Nibble, ∃ n, sbox n = m ∧ ∀ n', sbox n' = m → n' = n) ∧ ∀ n : Nibble, sbox n ≠ n

/-- R90: output position `p` equals input position `map[p]`, both counted from the most significant bit. -/
def Obligations.PermTakesEachBitFromItsMapPosition : Prop :=
  (List.range 8).map (fun p => memReadPmap (BitVec.ofNat 3 p)) = [3#3, 0#3, 2#3, 4#3, 6#3, 1#3, 7#3, 5#3] ∧
  ∀ (b : Byte) (p : BitIndex), (perm b).getMsbD p.toNat = b.getMsbD (memReadPmap p).toNat

/-- R91: the eight wires, least significant bit numbering; and R42: the wiring and the table are one function. -/
def Obligations.PermIsTheEightWiresOfTheCircuit : Prop :=
  ∀ b : Byte,
    ((perm b).getLsbD 7 = b.getLsbD 4 ∧ (perm b).getLsbD 6 = b.getLsbD 7 ∧
      (perm b).getLsbD 5 = b.getLsbD 5 ∧ (perm b).getLsbD 4 = b.getLsbD 3 ∧
      (perm b).getLsbD 3 = b.getLsbD 1 ∧ (perm b).getLsbD 2 = b.getLsbD 6 ∧
      (perm b).getLsbD 1 = b.getLsbD 0 ∧ (perm b).getLsbD 0 = b.getLsbD 2) ∧
    permFromMap b = perm b

/-- R92: bijection, number of 1 bits kept, distribution over XOR, the single bits, order seven, not an involution. -/
def Obligations.PermKeepsOnesAndXorAndHasOrderSeven : Prop :=
  (∀ c : Byte, ∃ b, perm b = c ∧ ∀ b', perm b' = c → b' = b) ∧
  (∀ b : Byte, (List.range 8).countP (fun i => (perm b).getLsbD i) = (List.range 8).countP (fun i => b.getLsbD i)) ∧
  (perm 0x00#8 = 0x00#8 ∧ perm 0xFF#8 = 0xFF#8) ∧
  (∀ a b : Byte, perm (a ^^^ b) = perm a ^^^ perm b) ∧
  (perm 0x01#8 = 0x02#8 ∧ perm 0x02#8 = 0x08#8 ∧ perm 0x04#8 = 0x01#8 ∧ perm 0x08#8 = 0x10#8 ∧
    perm 0x10#8 = 0x80#8 ∧ perm 0x20#8 = 0x20#8 ∧ perm 0x40#8 = 0x04#8 ∧ perm 0x80#8 = 0x40#8) ∧
  (∀ b : Byte, perm (perm (perm (perm (perm (perm (perm b)))))) = b) ∧
  (∀ n, 0 < n → n < 7 → ∃ b : Byte, Nat.repeat perm n b ≠ b) ∧
  perm (perm 0x01#8) = 0x08#8

/-- R104: the five steps, with the nibbles and their re-assembly as the shifts and masks of R101 and R103. -/
def Obligations.RoundIsItsFiveSteps : Prop :=
  ∀ byte key left right substitutedRight feistelOut combined : Byte,
    left = byte >>> 4 &&& 0x0F#8 → right = byte &&& 0x0F#8 →
    substitutedRight = (sbox (right.setWidth 4)).setWidth 8 →
    feistelOut = left ^^^ substitutedRight →
    combined = feistelOut <<< 4 ||| substitutedRight →
    cipherRound byte key = perm combined

/-- R105: the key is not used. -/
def Obligations.RoundDoesNotUseTheKey : Prop :=
  ∀ b k1 k2 : Byte, cipherRound b k1 = cipherRound b k2

/-- R108: for each key Round is a bijection without fixed point, never undoes itself, and permutes the 256 bytes in
eight cycles of the stated lengths (the lists hold 256 bytes, all different, each followed by its image). -/
def Obligations.RoundPermutesTheBytesInEightCycles : Prop :=
  ∀ k : Byte,
    (∀ c : Byte, ∃ b, cipherRound b k = c ∧ ∀ b', cipherRound b' k = c → b' = b) ∧
    (∀ b : Byte, cipherRound b k ≠ b) ∧
    (∀ b : Byte, cipherRound (cipherRound b k) k ≠ b) ∧
    ∃ cycles : List (List Byte),
      cycles.map List.length = [4, 9, 9, 26, 26, 36, 60, 86] ∧ cycles.flatten.Nodup ∧
      ∀ cyc ∈ cycles, ∀ i b, cyc[i]? = some b → cyc[(i + 1) % cyc.length]? = some (cipherRound b k)

/-! ### The commands -/

/-- R83: SUB, the word that means it, the in-range result and the out-of-range error, in every state. -/
def Obligations.SubAnswersTheTableEntryOrInvalidInput : Prop :=
  (∀ w : CmdWord, w.extractLsb' 0 3 = 0#3 → decode w = .sub (w.extractLsb' 8 8)) ∧
  (∀ (n : Byte) (s : State), n.toNat ≤ 15 →
    exec (.sub n) s = .next { s with out := { rspValid := true, rsp := (memReadSbox (n.setWidth 4)).setWidth 10 } }) ∧
  ∀ (n : Byte) (s : State), 15 < n.toNat →
    exec (.sub n) s = .next { s with out := { rspValid := true, rsp := 0x100#10 } }

/-- R93: PERM, the word that means it and its result, in every state. -/
def Obligations.PermAnswersThePermutedByte : Prop :=
  (∀ w : CmdWord, w.extractLsb' 0 3 = 1#3 → decode w = .perm (w.extractLsb' 8 8)) ∧
  ∀ (b : Byte) (s : State),
    exec (.perm b) s = .next { s with out := { rspValid := true, rsp := (perm b).setWidth 10 } }

/-- R106: ENCB, the word that means it and its result, in every state; KEY and PREV are not touched. -/
def Obligations.EncbAnswersOneRoundOfItsByte : Prop :=
  (∀ w : CmdWord, w.extractLsb' 0 3 = 2#3 → decode w = .encb (w.extractLsb' 8 8) (w.extractLsb' 16 8)) ∧
  ∀ (b k : Byte) (s : State),
    exec (.encb b k) s = .next { s with out := { rspValid := true, rsp := (cipherRound b k).setWidth 10 } }

/-- R111: START, the word that means it; idle, it loads all five registers; open, it gets PROTOCOL and writes none. -/
def Obligations.StartOpensACallOrGetsProtocol : Prop :=
  (∀ w : CmdWord, w.extractLsb' 0 3 = 3#3 → decode w =
    .start (if w.getLsbD 3 then .chained else .independent) (if w.getLsbD 4 then .decrypt else .encrypt)
      (w.extractLsb' 16 8) (w.extractLsb' 24 8)) ∧
  (∀ (m : ChainMode) (d : Direction) (k iv : Byte) (s : State), s.regs.active = false →
    exec (.start m d k iv) s = .next
      { s with
        regs := { active := true, mode := m, dir := d, key := k, prev := iv }
        out := { rspValid := true, rsp := 0x000#10 } }) ∧
  ∀ (m : ChainMode) (d : Direction) (k iv : Byte) (s : State), s.regs.active = true →
    exec (.start m d k iv) s = .next { s with out := { rspValid := true, rsp := 0x300#10 } }

/-- R112: END, the word that means it; open, it clears all five registers; idle, it gets PROTOCOL and writes none. -/
def Obligations.EndClearsTheRegistersOrGetsProtocol : Prop :=
  (∀ w : CmdWord, w.extractLsb' 0 3 = 5#3 → decode w = .endCall) ∧
  (∀ s : State, s.regs.active = true →
    exec .endCall s = .next
      { s with
        regs := { active := false, mode := .independent, dir := .encrypt, key := 0x00#8, prev := 0x00#8 }
        out := { rspValid := true, rsp := 0x000#10 } }) ∧
  ∀ s : State, s.regs.active = false →
    exec .endCall s = .next { s with out := { rspValid := true, rsp := 0x300#10 } }

/-- R114: the independent encrypt beat answers Round of its byte and writes no register. -/
def Obligations.IndependentEncryptBeatAnswersTheRound : Prop :=
  ∀ (b : Byte) (s : State), s.regs.active = true → s.regs.mode = .independent → s.regs.dir = .encrypt →
    exec (.data b) s = .next { s with out := { rspValid := true, rsp := (cipherRound b s.regs.key).setWidth 10 } }

/-- R115: the independent decrypt beat is the identical operation. -/
def Obligations.IndependentDecryptBeatIsTheSameOperation : Prop :=
  ∀ (b : Byte) (s : State), s.regs.active = true → s.regs.mode = .independent → s.regs.dir = .decrypt →
    exec (.data b) s = .next { s with out := { rspValid := true, rsp := (cipherRound b s.regs.key).setWidth 10 } }

/-- R116: the chained encrypt beat mixes before the round and leaves the byte it sent in PREV. -/
def Obligations.ChainedEncryptBeatMixesThenRounds : Prop :=
  ∀ (b mixed cipherByte : Byte) (s : State), s.regs.active = true → s.regs.mode = .chained → s.regs.dir = .encrypt →
    mixed = b ^^^ s.regs.prev → cipherByte = cipherRound mixed s.regs.key →
    exec (.data b) s = .next
      { s with
        regs := { s.regs with prev := cipherByte }
        out := { rspValid := true, rsp := cipherByte.setWidth 10 } }

/-- R117: the chained decrypt beat mixes after the forward round and leaves the byte it consumed in PREV. -/
def Obligations.ChainedDecryptBeatRoundsThenMixes : Prop :=
  ∀ (b transformed plainByte : Byte) (s : State), s.regs.active = true → s.regs.mode = .chained →
    s.regs.dir = .decrypt → transformed = cipherRound b s.regs.key → plainByte = transformed ^^^ s.regs.prev →
    exec (.data b) s = .next
      { s with
        regs := { s.regs with prev := b }
        out := { rspValid := true, rsp := plainByte.setWidth 10 } }

/-- R113, the part common to the four beats: PROTOCOL when idle; open, one OK response with one data byte, and ACTIVE,
MODE, DIR and KEY unchanged. -/
def Obligations.DataNeedsAnOpenCallAndKeepsItsParameters : Prop :=
  (∀ w : CmdWord, w.extractLsb' 0 3 = 4#3 → decode w = .data (w.extractLsb' 8 8)) ∧
  (∀ (b : Byte) (s : State), s.regs.active = false →
    exec (.data b) s = .next { s with out := { rspValid := true, rsp := 0x300#10 } }) ∧
  ∀ (b : Byte) (s : State), s.regs.active = true →
    ∃ p d : Byte, exec (.data b) s = .next
      { s with regs := { s.regs with prev := p }, out := { rspValid := true, rsp := d.setWidth 10 } }

/-- R141: a word whose opcode is 6 or 7 gets ILLEGAL_CMD, and no register is written. -/
def Obligations.ReservedOpcodesGetIllegalCmd : Prop :=
  (∀ w : CmdWord, (decode w = .reserved6 ↔ w.extractLsb' 0 3 = 6#3) ∧ (decode w = .reserved7 ↔ w.extractLsb' 0 3 = 7#3)) ∧
  ∀ s : State,
    exec .reserved6 s = .next { s with out := { rspValid := true, rsp := 0x200#10 } } ∧
    exec .reserved7 s = .next { s with out := { rspValid := true, rsp := 0x200#10 } }

/-! ### Errors -/

/-- R140, R141, R142, R143: each error status has exactly its causes, and every other command is OK. In particular no
word of PERM, ENCB, START, DATA or END can get INVALID_INPUT. -/
def Obligations.EachErrorStatusHasExactlyItsCauses : Prop :=
  ∀ (i : Instr) (s : State), ∃ t, exec i s = .next t ∧ t.out.rspValid = true ∧
    (t.out.rsp = 0x100#10 ↔ ∃ n : Byte, i = .sub n ∧ 16 ≤ n.toNat) ∧
    (t.out.rsp = 0x200#10 ↔ i = .reserved6 ∨ i = .reserved7) ∧
    (t.out.rsp = 0x300#10 ↔
      ((∃ m d k iv, i = .start m d k iv) ∧ s.regs.active = true) ∨
      (((∃ b, i = .data b) ∨ i = .endCall) ∧ s.regs.active = false)) ∧
    (rspStatus t.out.rsp = 0#2 ∨
      (t.out.rsp = 0x100#10 ∨ t.out.rsp = 0x200#10 ∨ t.out.rsp = 0x300#10) ∧ t.regs = s.regs)

/-- R145: the first check that applies decides the whole cycle. -/
def Obligations.TheFirstApplicableCheckDecidesTheCycle : Prop :=
  ∀ (s : State) (c : ClockCycle) (rest : List ClockCycle), s.inputs = c :: rest →
    ∃ t, step s = .next t ∧ t.inputs = rest ∧
      (if c.rst = true then t.regs = Regs.reset ∧ t.out = PortOut.none
      else if c.cmdValid = false then t.regs = s.regs ∧ t.out = PortOut.none
      else if c.cmd.extractLsb' 0 3 = 6#3 ∨ c.cmd.extractLsb' 0 3 = 7#3 then
        t.regs = s.regs ∧ t.out = ⟨true, 0x200#10⟩
      else if (c.cmd.extractLsb' 0 3 = 3#3 ∧ s.regs.active = true) ∨
          ((c.cmd.extractLsb' 0 3 = 4#3 ∨ c.cmd.extractLsb' 0 3 = 5#3) ∧ s.regs.active = false) then
        t.regs = s.regs ∧ t.out = ⟨true, 0x300#10⟩
      else if c.cmd.extractLsb' 0 3 = 0#3 ∧ c.cmd.extractLsb' 12 4 ≠ 0#4 then
        t.regs = s.regs ∧ t.out = ⟨true, 0x100#10⟩
      else exec (decode c.cmd) (s.withInputs rest) = .next t ∧ t.out.rspValid = true ∧ rspStatus t.out.rsp = 0#2)

/-- R147: the cycles after a failed command go exactly as if it had been a no-command cycle (the outputs compared may go
past the listed cycles, log entry 3). -/
def Obligations.AFailedCommandLeavesNoTrace : Prop :=
  ∀ (s t : State) (c : ClockCycle) (rest : List ClockCycle), s.inputs = c :: rest → c.rst = false → c.cmdValid = true →
    step s = .next t → rspStatus t.out.rsp ≠ 0#2 →
    ∃ u, step (s.withInputs (ClockCycle.idle :: rest)) = .next u ∧ t.regs = u.regs ∧ t.inputs = u.inputs ∧
      ∀ n, outputs n t = outputs n u

/-- R148: the same failed word in the same state gives the same failed response, and presenting it again does too,
any number of times in a row. -/
def Obligations.RetryingAFailedCommandNeverChangesItsOutcome : Prop :=
  ∀ (s t : State) (w : CmdWord) (n : Nat) (rest : List ClockCycle),
    s.inputs = List.replicate (n + 1) ⟨false, true, w⟩ ++ rest → step s = .next t → rspStatus t.out.rsp ≠ 0#2 →
    outputs (n + 1) s = List.replicate (n + 1) t.out ∧
      ∃ u, run (n + 1) s = .next u ∧ u.regs = s.regs ∧ u.inputs = rest

/-! ### Frames -/

/-- The "written by" column of R21 and R131: outside START, END and reset no command writes ACTIVE, MODE, DIR or KEY; PREV
is written by no command but those and DATA in chained mode; and no command takes a cycle of the host's. -/
def Obligations.OnlyTheListedCommandsWriteARegister : Prop :=
  ∀ (i : Instr) (s t : State), exec i s = .next t →
    t.inputs = s.inputs ∧
    ((∀ m d k iv, i ≠ .start m d k iv) → i ≠ .endCall →
      t.regs.active = s.regs.active ∧ t.regs.mode = s.regs.mode ∧ t.regs.dir = s.regs.dir ∧ t.regs.key = s.regs.key ∧
      ((∀ b, i ≠ .data b) ∨ s.regs.mode = .independent → t.regs.prev = s.regs.prev))

/-- SUB, PERM, ENCB and the reserved opcodes answer in every state, write no register, and their response depends on no
register (R83, R93, R106, R68; R161 says so even before the first reset). -/
def Obligations.RegisterFreeCommandsReadAndWriteNoRegister : Prop :=
  ∀ (i : Instr), (∀ m d k iv, i ≠ .start m d k iv) → (∀ b, i ≠ .data b) → i ≠ .endCall →
    ∃ o : PortOut, ∀ s : State, exec i s = .next { s with out := o }

/-- R110: what each command does in the idle and in the open state. -/
def Obligations.ControllerMovesOnlyByStartEndAndReset : Prop :=
  ∀ (s : State) (c : ClockCycle) (rest : List ClockCycle), s.inputs = c :: rest →
    ∃ t, step s = .next t ∧
      match c.kind, s.regs.active with
      | .reset, _ => t.regs = Regs.reset
      | .noCommand, _ => t.regs = s.regs
      | .command (.start _ _ _ _), false => rspStatus t.out.rsp = 0#2 ∧ t.regs.active = true
      | .command (.start _ _ _ _), true => t.out.rsp = 0x300#10 ∧ t.regs = s.regs
      | .command (.data _), false => t.out.rsp = 0x300#10 ∧ t.regs = s.regs
      | .command (.data _), true => rspStatus t.out.rsp = 0#2 ∧ t.regs = { s.regs with prev := t.regs.prev } ∧
          (s.regs.mode = .independent → t.regs = s.regs)
      | .command .endCall, false => t.out.rsp = 0x300#10 ∧ t.regs = s.regs
      | .command .endCall, true => rspStatus t.out.rsp = 0#2 ∧ t.regs.active = false
      | .command (.sub n), _ => (n.toNat ≤ 15 → rspStatus t.out.rsp = 0#2) ∧ t.regs = s.regs
      | .command (.perm _), _ => rspStatus t.out.rsp = 0#2 ∧ t.regs = s.regs
      | .command (.encb _ _), _ => rspStatus t.out.rsp = 0#2 ∧ t.regs = s.regs
      | .command .reserved6, _ => t.out.rsp = 0x200#10 ∧ t.regs = s.regs
      | .command .reserved7, _ => t.out.rsp = 0x200#10 ∧ t.regs = s.regs

/-! ### Cycles -/

/-- R65: a cycle is a reset, no command, or exec of the command its word decodes to; the cycle is then taken. -/
def Obligations.AStepRunsTheDecodedCommand : Prop :=
  ∀ (s : State) (c : ClockCycle) (rest : List ClockCycle), s.inputs = c :: rest →
    (c.rst = true → step s = .next { regs := Regs.reset, out := PortOut.none, inputs := rest }) ∧
    (c.rst = false → c.cmdValid = false → step s = .next { regs := s.regs, out := PortOut.none, inputs := rest }) ∧
    (c.rst = false → c.cmdValid = true → step s = exec (decode c.cmd) { s with inputs := rest })

/-- The model's choice, log entry 4 (how a command comes to run from outside): a word placed by `withFetchWord` is what
the next step runs. The spec names no such placing. -/
def Obligations.APlacedWordIsRunByTheNextStep : Prop :=
  ∀ (s : State) (w : CmdWord), step (s.withFetchWord 32 w.toNat) = exec (decode w) s

/-- The model's choice, log entry 3: past the listed cycles the host presents none, which is a no-command cycle. -/
def Obligations.PastTheListedCyclesNoCommandIsPresented : Prop :=
  ∀ s : State, s.inputs = [] → step s = .next { regs := s.regs, out := PortOut.none, inputs := [] }

/-- R33: the reset values, in the state after a reset cycle and in `State.reset`. -/
def Obligations.AfterResetEveryRegisterIsZero : Prop :=
  (State.reset.regs.active = false ∧ State.reset.regs.mode = .independent ∧ State.reset.regs.dir = .encrypt ∧
    State.reset.regs.key = 0x00#8 ∧ State.reset.regs.prev = 0x00#8) ∧
  ∀ (s : State) (c : ClockCycle) (rest : List ClockCycle), s.inputs = c :: rest → c.rst = true →
    ∃ t, step s = .next t ∧ t.regs.active = false ∧ t.regs.mode = .independent ∧ t.regs.dir = .encrypt ∧
      t.regs.key = 0x00#8 ∧ t.regs.prev = 0x00#8

/-- R160: any number of reset cycles, with or without commands in them, leave the reset state and give no response, and
the beats presented after them get PROTOCOL. -/
def Obligations.ResetAbortsACallAndIgnoresCommands : Prop :=
  ∀ (s : State) (rs : List ClockCycle) (bs : List CmdWord) (rest : List ClockCycle),
    rs ≠ [] → (∀ c ∈ rs, c.rst = true) → (∀ w ∈ bs, w.extractLsb' 0 3 = 4#3) →
    s.inputs = rs ++ (bs.map ClockCycle.present ++ rest) →
    outputs (rs.length + bs.length) s =
        List.replicate rs.length ⟨false, 0#10⟩ ++ List.replicate bs.length ⟨true, 0x300#10⟩ ∧
      (∃ t, run rs.length s = .next t ∧ t.regs = Regs.reset ∧ t.out = ⟨false, 0#10⟩) ∧
      ∃ u, run (rs.length + bs.length) s = .next u ∧ u.regs = Regs.reset ∧ u.inputs = rest

/-- R70: any number of no-command cycles give no response, keep every register, and change no later response
(the outputs compared may go past the listed cycles, log entry 3). -/
def Obligations.NoCommandCyclesKeepEveryRegister : Prop :=
  ∀ (s : State) (cs rest : List ClockCycle), (∀ c ∈ cs, c.rst = false ∧ c.cmdValid = false) → s.inputs = cs ++ rest →
    ∃ t, run cs.length s = .next t ∧ t.regs = s.regs ∧ t.inputs = rest ∧
      ∀ n, outputs (cs.length + n) s = List.replicate cs.length ⟨false, 0#10⟩ ++ outputs n (s.withInputs rest)

/-- R66: a command cycle has exactly one response, laid out as stated, and it is a function of the command and the
registers of that cycle; any other cycle has none. -/
def Obligations.EveryCommandCycleHasOneLegalResponse : Prop :=
  (∀ (s : State) (c : ClockCycle) (rest : List ClockCycle), s.inputs = c :: rest →
    ∃ t, step s = .next t ∧
      (c.rst = false ∧ c.cmdValid = true → t.out.rspValid = true) ∧
      (c.rst = true ∨ c.cmdValid = false → t.out.rspValid = false ∧ t.out.rsp = 0#10) ∧
      (t.out.rsp.extractLsb' 8 2 ≠ 0#2 → t.out.rsp.extractLsb' 0 8 = 0x00#8) ∧
      (∀ n, c.kind = .command (.sub n) → t.out.rsp.extractLsb' 4 4 = 0#4) ∧
      (∀ m d k iv, c.kind = .command (.start m d k iv) → t.out.rsp.extractLsb' 0 8 = 0x00#8) ∧
      (c.kind = .command .endCall → t.out.rsp.extractLsb' 0 8 = 0x00#8)) ∧
  ∀ (i : Instr) (s s' : State), s.regs = s'.regs →
    ∃ t t', exec i s = .next t ∧ exec i s' = .next t' ∧ t.out = t'.out ∧ t.regs = t'.regs

/-- R20: the step is total, in every state and for every input, and takes one cycle of the host's. That it goes on with
no cycle listed rests on the model's choice to present no command there (log entry 3). -/
def Obligations.EveryStepGivesANextState : Prop :=
  ∀ s : State, ∃ t, step s = .next t ∧ t.inputs = s.inputs.tail

/-- R168: the block never halts, and a run's observable result is one response per accepted command. R168's run is the
listed cycles, `k ≤ s.inputs.length`; for a larger `k` the count of responses, and that the run goes on, rest on the
model's choice to present no command past the list (log entry 3), which is no rule of the spec. -/
def Obligations.ARunNeverHaltsAndAnswersEachAcceptedCommand : Prop :=
  ∀ (k : Nat) (s : State),
    (∃ t, run k s = .next t ∧ t.inputs = s.inputs.drop k) ∧
    (outputs k s).length = k ∧
    (responses k s).length = (s.inputs.take k).countP (fun c => !c.rst && c.cmdValid)

/-! ### Invariants -/

/-- The reset state, with any cycles of the host's to come, meets the idle invariant (R33, R34) and has legal outputs. That
`State.reset` holds the outputs of a reset cycle is deduced from R66 and R160 (log entry 2). -/
def Obligations.TheResetStateMeetsTheInvariants : Prop :=
  ∀ cs : List ClockCycle, IdleIsReset (State.reset.withInputs cs) ∧ OutputLegal (State.reset.withInputs cs).out

/-- R34 as a property of every step: an idle block is bit for bit the reset state. The step with no cycle listed, log entry
3, keeps every register. -/
def Obligations.EveryStepKeepsIdleMeansReset : Prop :=
  ∀ s t : State, IdleIsReset s → step s = .next t → IdleIsReset t

/-- R34: in every state reachable from the reset state. -/
def Obligations.TheOnlyReachableIdleStateIsTheResetState : Prop :=
  ∀ s : State, Reachable s → s.regs.active = false →
    s.regs.mode = .independent ∧ s.regs.dir = .encrypt ∧ s.regs.key = 0x00#8 ∧ s.regs.prev = 0x00#8

/-- R66, R67: whatever the state, the ports after a step hold nothing without a response, and no data with an error.
The step with no cycle listed, log entry 3, answers nothing. -/
def Obligations.EveryStepLeavesLegalOutputs : Prop :=
  ∀ s t : State, step s = .next t → OutputLegal t.out

/-! ### Calls and the four sequence functions -/

/-- R119 to R122: the defining equations, element by element; `previous` is the IV first, then the cipher byte before. -/
def Obligations.SequenceFunctionsMeetTheirDefinitions : Prop :=
  ∀ (bs : List Byte) (k iv : Byte),
    ((encInd bs k).length = bs.length ∧ (decInd bs k).length = bs.length ∧
      (encCh bs k iv).length = bs.length ∧ (decCh bs k iv).length = bs.length) ∧
    decInd bs k = encInd bs k ∧
    ∀ (i : Nat) (b : Byte), bs[i]? = some b →
      (encInd bs k)[i]? = some (cipherRound b k) ∧
      (∀ p : Byte, (iv :: encCh bs k iv)[i]? = some p → (encCh bs k iv)[i]? = some (cipherRound (b ^^^ p) k)) ∧
      (∀ p : Byte, (iv :: bs)[i]? = some p → (decCh bs k iv)[i]? = some (cipherRound b k ^^^ p))

/-- R123: a call presented from the idle state, with any no-command cycles and any SUB, PERM, ENCB and reserved opcodes
between its commands and no reset, gets OK for each of its commands, its DATA responses are the sequence function of its
START fields, and the state after it is the reset state. -/
def Obligations.ACallComputesItsSequenceFunction : Prop :=
  ∀ (m : ChainMode) (d : Direction) (k iv : Byte) (bs : List Byte) (cs rest : List ClockCycle) (s : State),
    s.regs.active = false → s.inputs = cs ++ rest → (∀ c ∈ cs, c.rst = false) →
    cs.filterMap ClockCycle.chain? = callCommands m d k iv bs →
    (chainResponses cs (outputs cs.length s)).map Prod.fst = callCommands m d k iv bs ∧
    (∀ p ∈ chainResponses cs (outputs cs.length s), rspStatus p.2 = 0#2) ∧
    dataResults cs (outputs cs.length s) = callResult m d k iv bs ∧
    (callResult m d k iv bs).length = bs.length ∧
    ∃ t, run cs.length s = .next t ∧ t.regs = Regs.reset ∧ t.inputs = rest

/-- R168: a run that ends with a call open has delivered the output of the part of its input it was given, which is a
prefix of the output of any longer input; the call is still open, so the run is not complete. -/
def Obligations.AnOpenRunHasDeliveredTheOutputOfItsPrefix : Prop :=
  ∀ (m : ChainMode) (d : Direction) (k iv : Byte) (bs more : List Byte) (cs rest : List ClockCycle) (s : State),
    s.regs.active = false → s.inputs = cs ++ rest → (∀ c ∈ cs, c.rst = false) →
    cs.filterMap ClockCycle.chain? = .start m d k iv :: bs.map Instr.data →
    dataResults cs (outputs cs.length s) = callResult m d k iv bs ∧
    callResult m d k iv bs <+: callResult m d k iv (bs ++ more) ∧
    ∃ t, run cs.length s = .next t ∧ ¬ Complete t ∧ t.inputs = rest

/-- R72: the expansion of a macro, presented from the idle state, yields the sequence function of the source operation it
stands for. -/
def Obligations.AMacroYieldsItsSourceOperation : Prop :=
  ∀ (mac : Macro) (s : State) (rest : List ClockCycle), mac.wellFormed = true → s.regs.active = false →
    s.inputs = (expand mac).map asmCycle ++ rest →
    dataResults ((expand mac).map asmCycle) (outputs (expand mac).length s) =
      (match mac with
      | .enci k bs => encInd (bs.map (BitVec.ofNat 8)) (BitVec.ofNat 8 k)
      | .deci k bs => decInd (bs.map (BitVec.ofNat 8)) (BitVec.ofNat 8 k)
      | .encc k iv bs => encCh (bs.map (BitVec.ofNat 8)) (BitVec.ofNat 8 k) (BitVec.ofNat 8 iv)
      | .decc k iv bs => decCh (bs.map (BitVec.ofNat 8)) (BitVec.ofNat 8 k) (BitVec.ofNat 8 iv)) ∧
    ∃ t, run (expand mac).length s = .next t ∧ t.regs = Regs.reset ∧ t.inputs = rest

/-- R118: taking the SUB, PERM, ENCB, reserved-opcode and no-command cycles out of any stream leaves every START, DATA and
END with the response it had, and the same registers at the end. -/
def Obligations.RegisterFreeCyclesDoNotDisturbTheOthers : Prop :=
  ∀ (s : State) (cs kept : List ClockCycle), kept = cs.filter (fun c => c.rst || c.chain?.isSome) →
    chainResponses cs (outputs cs.length (s.withInputs cs)) =
      chainResponses kept (outputs kept.length (s.withInputs kept)) ∧
    ∃ t u, run cs.length (s.withInputs cs) = .next t ∧
      run kept.length (s.withInputs kept) = .next u ∧ t.regs = u.regs

/-- R127: from any two idle states, whatever came before, two streams without reset whose START, DATA and END commands
are the same and begin with a START get the same responses for them. -/
def Obligations.ACallDependsOnNothingBeforeItsStart : Prop :=
  ∀ (s s' : State) (cs cs' : List ClockCycle) (m : ChainMode) (d : Direction) (k iv : Byte) (more : List Instr),
    s.regs.active = false → s'.regs.active = false →
    (∀ c ∈ cs, c.rst = false) → (∀ c ∈ cs', c.rst = false) →
    cs.filterMap ClockCycle.chain? = .start m d k iv :: more → cs'.filterMap ClockCycle.chain? = .start m d k iv :: more →
    chainResponses cs (outputs cs.length (s.withInputs cs)) =
      chainResponses cs' (outputs cs'.length (s'.withInputs cs'))

/-- R53: the beats of an open independent call answer the round of their own byte, one by one, and write no register, so
reordering the beats reorders the responses and changes nothing else. -/
def Obligations.IndependentBeatsDependOnTheirOwnByteOnly : Prop :=
  ∀ (s : State) (bs : List Byte) (rest : List ClockCycle), s.regs.active = true → s.regs.mode = .independent →
    s.inputs = bs.map (fun b => ClockCycle.present (encode (.data b))) ++ rest →
    outputs bs.length s = bs.map (fun b => { rspValid := true, rsp := (cipherRound b s.regs.key).setWidth 10 }) ∧
    ∃ t, run bs.length s = .next t ∧ t.regs = s.regs ∧ t.inputs = rest

/-- R125: independent decrypt of independent encrypt is the round twice, which recovers no byte. -/
def Obligations.IndependentDecryptRecoversNoByte : Prop :=
  ∀ (bs : List Byte) (k : Byte),
    decInd (encInd bs k) k = bs.map (fun b => cipherRound (cipherRound b k) k) ∧
    ∀ (i : Nat) (b : Byte), bs[i]? = some b → (decInd (encInd bs k) k)[i]? ≠ some b

/-- R126: chained decrypt of chained encrypt recovers no position. -/
def Obligations.ChainedDecryptRecoversNoByte : Prop :=
  ∀ (bs : List Byte) (k iv : Byte) (i : Nat) (b : Byte), bs[i]? = some b →
    (decCh (encCh bs k iv) k iv)[i]? ≠ some b

/-- R128: changing one plaintext byte changes that cipher byte and every later one and no earlier one; changing one
cipher byte changes that plain byte and the next and no other; changing the IV changes every cipher byte but only the
first plain byte. -/
def Obligations.AChangedByteChangesTheChainFromItsPosition : Prop :=
  (∀ (pre post : List Byte) (b b' k iv : Byte), b ≠ b' →
    ∀ i, i < (pre ++ b :: post).length →
      ((encCh (pre ++ b :: post) k iv)[i]? = (encCh (pre ++ b' :: post) k iv)[i]? ↔ i < pre.length) ∧
      ((decCh (pre ++ b :: post) k iv)[i]? = (decCh (pre ++ b' :: post) k iv)[i]? ↔
        i ≠ pre.length ∧ i ≠ pre.length + 1)) ∧
  ∀ (bs : List Byte) (k iv iv' : Byte), iv ≠ iv' →
    ∀ i, i < bs.length →
      (encCh bs k iv)[i]? ≠ (encCh bs k iv')[i]? ∧
      ((decCh bs k iv)[i]? = (decCh bs k iv')[i]? ↔ i ≠ 0)

/-- R129: no output of any of the four functions depends on the key. -/
def Obligations.NoSequenceFunctionDependsOnTheKey : Prop :=
  ∀ (bs : List Byte) (k1 k2 iv : Byte),
    encInd bs k1 = encInd bs k2 ∧ decInd bs k1 = decInd bs k2 ∧ encCh bs k1 iv = encCh bs k2 iv ∧
    decCh bs k1 iv = decCh bs k2 iv

/-! ### What no response can show -/

/-- R24: no response depends on KEY or on any key field. Two runs whose registers differ at most in KEY, and whose
cycles differ at most in `cmd[23:16]`, have the same outputs (past the listed cycles too, log entry 3). -/
def Obligations.NoResponseDependsOnAnyKey : Prop :=
  ∀ (s s' : State) (k : Byte) (n : Nat), s'.regs = { s.regs with key := k } →
    List.Forall₂ (fun c c' : ClockCycle =>
      c.rst = c'.rst ∧ c.cmdValid = c'.cmdValid ∧ c.cmd &&& 0xFF00FFFF#32 = c'.cmd &&& 0xFF00FFFF#32) s.inputs s'.inputs →
    outputs n s = outputs n s'

/-- R25: in independent mode PREV is unobservable. Two runs whose open independent calls differ at most in PREV have the
same outputs for ever (past the listed cycles too, log entry 3). -/
def Obligations.PrevIsUnobservableInIndependentMode : Prop :=
  ∀ (s s' : State) (p : Byte) (n : Nat), s.regs.active = true → s.regs.mode = .independent →
    s'.regs = { s.regs with prev := p } → s'.inputs = s.inputs → outputs n s = outputs n s'
end

