-- ==== Sys2Proof/Config.lean ====
section
/-! DEFINITION. The parameters of CMP-CORE. Every one has one value (00_scope.md R6); none is open
(92_eei_decisions.md, "Open parameters": none), so there is no free value here. Tests/Slice0.lean ties them to the
types and tables of the model. -/

namespace Sys2Proof.Config

/-- "rounds per block", R6: exactly one application of ROUND per block (R100). -/
def roundsPerBlock : Nat := 1

/-- "S-box depth and width", R6: the number of entries of the SBOX space. -/
def sboxDepth : Nat := 16

/-- "permutation size", R6: the number of entries of the PMAP space. -/
def permutationSize : Nat := 8

/-- "architectural register bits", R6: ACTIVE, MODE, DIR, KEY, PREV. -/
def registerBits : List (String × Nat) :=
  [("ACTIVE", 1), ("MODE", 1), ("DIR", 1), ("KEY", 8), ("PREV", 8)]

end Sys2Proof.Config
end

