-- ==== Sys2Proof/Laws/Encoding.lean ====
section
/-! SUPPORT. The fields of an assembled command word are the fields it was assembled from (30_encoding.md R61). -/

namespace Sys2Proof

/-- The bits of seven fields laid side by side. -/
theorem getLsbD_append_seven {a b c d e f g : Nat} (t : BitVec a) (u : BitVec b) (v : BitVec c) (w : BitVec d)
    (x : BitVec e) (y : BitVec f) (z : BitVec g) (j : Nat) :
    (t ++ u ++ v ++ w ++ x ++ y ++ z).getLsbD j =
      if j < g then z.getLsbD j else if j - g < f then y.getLsbD (j - g) else if j - g - f < e then
        x.getLsbD (j - g - f) else if j - g - f - e < d then w.getLsbD (j - g - f - e) else
        if j - g - f - e - d < c then v.getLsbD (j - g - f - e - d) else
        if j - g - f - e - d - c < b then u.getLsbD (j - g - f - e - d - c) else
        t.getLsbD (j - g - f - e - d - c - b) := by
  simp only [BitVec.getLsbD_append]

/-- Every bit of the one format. -/
theorem getLsbD_commandWord (iv key data : Byte) (dir mode : BitVec 1) (op : BitVec 3) (j : Nat) :
    (commandWord iv key data dir mode op).getLsbD j =
      if j < 3 then op.getLsbD j else if j < 4 then mode.getLsbD (j - 3) else if j < 5 then dir.getLsbD (j - 4)
      else if j < 8 then false else if j < 16 then data.getLsbD (j - 8) else if j < 24 then key.getLsbD (j - 16)
      else iv.getLsbD (j - 24) := by
  refine (getLsbD_append_seven iv key data 0#3 dir mode op j).trans ?_
  simp only [Nat.sub_sub, Nat.reduceAdd, BitVec.getLsbD_zero]
  split_ifs <;> first | rfl | omega

@[simp] theorem opField_commandWord (iv key data : Byte) (dir mode : BitVec 1) (op : BitVec 3) :
    opField (commandWord iv key data dir mode op) = op := by
  ext i hi
  rw [opField, BitVec.getElem_extractLsb' hi, getLsbD_commandWord]
  split_ifs <;> first | omega | simp [BitVec.getLsbD_eq_getElem, hi]

@[simp] theorem modeField_commandWord (iv key data : Byte) (dir mode : BitVec 1) (op : BitVec 3) :
    modeField (commandWord iv key data dir mode op) = mode := by
  ext i hi
  rw [modeField, BitVec.getElem_extractLsb' hi, getLsbD_commandWord]
  split_ifs <;> first | omega | simp [BitVec.getLsbD_eq_getElem, hi]

@[simp] theorem dirField_commandWord (iv key data : Byte) (dir mode : BitVec 1) (op : BitVec 3) :
    dirField (commandWord iv key data dir mode op) = dir := by
  ext i hi
  rw [dirField, BitVec.getElem_extractLsb' hi, getLsbD_commandWord]
  split_ifs <;> first | omega | simp [BitVec.getLsbD_eq_getElem, hi]

@[simp] theorem dataField_commandWord (iv key data : Byte) (dir mode : BitVec 1) (op : BitVec 3) :
    dataField (commandWord iv key data dir mode op) = data := by
  ext i hi
  rw [dataField, BitVec.getElem_extractLsb' hi, getLsbD_commandWord]
  split_ifs <;> first | omega | simp [BitVec.getLsbD_eq_getElem, hi]

@[simp] theorem keyField_commandWord (iv key data : Byte) (dir mode : BitVec 1) (op : BitVec 3) :
    keyField (commandWord iv key data dir mode op) = key := by
  ext i hi
  rw [keyField, BitVec.getElem_extractLsb' hi, getLsbD_commandWord]
  split_ifs <;> first | omega | simp [BitVec.getLsbD_eq_getElem, hi]

@[simp] theorem ivField_commandWord (iv key data : Byte) (dir mode : BitVec 1) (op : BitVec 3) :
    ivField (commandWord iv key data dir mode op) = iv := by
  ext i hi
  rw [ivField, BitVec.getElem_extractLsb' hi, getLsbD_commandWord]
  split_ifs <;> first | omega | simp [BitVec.getLsbD_eq_getElem, hi]

@[simp] theorem ChainMode.ofBit_toBit (m : ChainMode) : ChainMode.ofBit m.toBit = m := by cases m <;> rfl
@[simp] theorem Direction.ofBit_toBit (d : Direction) : Direction.ofBit d.toBit = d := by cases d <;> rfl

end Sys2Proof
end

