-- ==== Sys2Proof/Laws/State.lean ====
section
/-! SUPPORT. One lemma per field per update of the state and of the shared operations, true by `rfl`. -/

namespace Sys2Proof.Machine

@[simp] theorem withRegs_regs (s : State) (r : Regs) : (s.withRegs r).regs = r := rfl
@[simp] theorem withRegs_out (s : State) (r : Regs) : (s.withRegs r).out = s.out := rfl
@[simp] theorem withRegs_inputs (s : State) (r : Regs) : (s.withRegs r).inputs = s.inputs := rfl
@[simp] theorem withOut_regs (s : State) (o : PortOut) : (s.withOut o).regs = s.regs := rfl
@[simp] theorem withOut_out (s : State) (o : PortOut) : (s.withOut o).out = o := rfl
@[simp] theorem withOut_inputs (s : State) (o : PortOut) : (s.withOut o).inputs = s.inputs := rfl
@[simp] theorem withInputs_regs (s : State) (cs : List ClockCycle) : (s.withInputs cs).regs = s.regs := rfl
@[simp] theorem withInputs_out (s : State) (cs : List ClockCycle) : (s.withInputs cs).out = s.out := rfl
@[simp] theorem withInputs_inputs (s : State) (cs : List ClockCycle) : (s.withInputs cs).inputs = cs := rfl

@[simp] theorem respond_regs (st : Status) (d : Byte) (s : State) : (respond st d s).regs = s.regs := rfl
@[simp] theorem respond_out (st : Status) (d : Byte) (s : State) :
    (respond st d s).out = { rspValid := true, rsp := rspWord st d } := rfl
@[simp] theorem respond_inputs (st : Status) (d : Byte) (s : State) : (respond st d s).inputs = s.inputs := rfl

@[simp] theorem raise_regs (st : Status) (s : State) : (raise st s).regs = s.regs := rfl
@[simp] theorem raise_out (st : Status) (s : State) :
    (raise st s).out = { rspValid := true, rsp := rspWord st 0x00#8 } := rfl
@[simp] theorem raise_inputs (st : Status) (s : State) : (raise st s).inputs = s.inputs := rfl

@[simp] theorem openCall_regs (m : ChainMode) (d : Direction) (k iv : Byte) (s : State) :
    (openCall m d k iv s).regs = { active := true, mode := m, dir := d, key := k, prev := iv } := rfl
@[simp] theorem openCall_inputs (m : ChainMode) (d : Direction) (k iv : Byte) (s : State) :
    (openCall m d k iv s).inputs = s.inputs := rfl
@[simp] theorem clearRegs_regs (s : State) : (clearRegs s).regs = Regs.reset := rfl
@[simp] theorem clearRegs_inputs (s : State) : (clearRegs s).inputs = s.inputs := rfl
@[simp] theorem setPrev_regs (v : Byte) (s : State) : (setPrev v s).regs = { s.regs with prev := v } := rfl
@[simp] theorem setPrev_inputs (v : Byte) (s : State) : (setPrev v s).inputs = s.inputs := rfl

@[simp] theorem resetCycle_regs (s : State) : (resetCycle s).regs = Regs.reset := rfl
@[simp] theorem resetCycle_out (s : State) : (resetCycle s).out = PortOut.none := rfl
@[simp] theorem resetCycle_inputs (s : State) : (resetCycle s).inputs = s.inputs := rfl
@[simp] theorem idleCycle_regs (s : State) : (idleCycle s).regs = s.regs := rfl
@[simp] theorem idleCycle_out (s : State) : (idleCycle s).out = PortOut.none := rfl
@[simp] theorem idleCycle_inputs (s : State) : (idleCycle s).inputs = s.inputs := rfl

end Sys2Proof.Machine
end

