-- ==== Sys2Proof/Laws/Fetch.lean ====
section
/-! SUPPORT. What taking the host's next cycle answers. -/

namespace Sys2Proof.Machine

@[simp] theorem kind_of_rst (c : ClockCycle) (h : c.rst = true) : c.kind = .reset := by simp [ClockCycle.kind, h]

@[simp] theorem kind_of_no_command (c : ClockCycle) (h : c.rst = false) (hv : c.cmdValid = false) :
    c.kind = .noCommand := by
  simp [ClockCycle.kind, h, hv]

@[simp] theorem kind_of_command (c : ClockCycle) (h : c.rst = false) (hv : c.cmdValid = true) :
    c.kind = .command (decode c.cmd) := by
  simp [ClockCycle.kind, h, hv]

theorem fetch_nil (s : State) (h : s.inputs = []) : fetch s = (.noCommand, s) := by
  simp [fetch, h, ClockCycle.kind, ClockCycle.idle]

theorem fetch_cons (s : State) (c : ClockCycle) (rest : List ClockCycle) (h : s.inputs = c :: rest) :
    fetch s = (c.kind, s.withInputs rest) := by
  simp [fetch, h]

/-- Placing a word puts one command cycle before the host's own. -/
theorem fetch_withFetchWord (s : State) (nbits w : Nat) :
    fetch (s.withFetchWord nbits w) = (.command (decode (BitVec.ofNat 32 (w % 2 ^ nbits))), s) := rfl

end Sys2Proof.Machine
end

