-- ==== Sys2Proof/Laws/Ops.lean ====
section
/-! SUPPORT. What each shared operation can do, said once: the response word, the nibble operand, the beat. -/

namespace Sys2Proof.Machine

@[simp] theorem rspStatus_rspWord (st : Status) (d : Byte) : rspStatus (rspWord st d) = st.code := by
  ext i hi
  rw [rspStatus, BitVec.getElem_extractLsb' hi]
  exact BitVec.getLsbD_append.trans (by simp [hi])

@[simp] theorem rspData_rspWord (st : Status) (d : Byte) : rspData (rspWord st d) = d := by
  ext i hi
  rw [rspData, BitVec.getElem_extractLsb' hi]
  exact BitVec.getLsbD_append.trans (by simp [hi])

/-- The high nibble of a byte is 0 exactly when the byte is at most 15 (30_encoding.md R64). -/
theorem leftNibble_eq_zero_iff (n : Byte) : leftNibble n = 0#4 ↔ n.toNat ≤ 15 := by
  have h : (leftNibble n).toNat = n.toNat / 16 := by
    have := n.isLt
    simp [leftNibble, BitVec.extractLsb'_toNat, Nat.shiftRight_eq_div_pow]
    omega
  rw [← BitVec.toNat_inj, h]
  simp
  omega

/-- What SUB's operand assembly can answer (R64). -/
theorem nibbleOperand_cases (n : Byte) :
    (n.toNat ≤ 15 ∧ nibbleOperand n = some (rightNibble n)) ∨ (15 < n.toNat ∧ nibbleOperand n = none) := by
  unfold nibbleOperand
  by_cases h : leftNibble n = 0#4
  · exact .inl ⟨(leftNibble_eq_zero_iff n).1 h, by simp [h]⟩
  · exact .inr ⟨by have := mt (leftNibble_eq_zero_iff n).2 h; omega, by simp [h]⟩

/-- Everything a beat can do: one OK response, and no register but PREV written (43_chaining.md R113). -/
theorem beat_cases (b : Byte) (s : State) :
    ∃ d p, beat b s = respond .ok d (setPrev p s) ∧ (s.regs.mode = .independent → p = s.regs.prev) := by
  cases hm : s.regs.mode <;> cases hd : s.regs.dir <;> simp only [beat, hm, hd]
  · exact ⟨_, s.regs.prev, rfl, fun _ => rfl⟩
  · exact ⟨_, s.regs.prev, rfl, fun _ => rfl⟩
  · exact ⟨_, _, rfl, nofun⟩
  · exact ⟨_, _, rfl, nofun⟩

end Sys2Proof.Machine
end

