-- ==== Sys2Proof/Laws/PerInstr.lean ====
section
/-! SUPPORT. What is proved of every command as syntax, one lemma per constructor. -/

/-! The encoding of a command has the match value of its row of the opcode table under the table's mask, 0x00000007
(30_encoding.md R62). -/

namespace Sys2Proof.Laws.TableRow

/-- `encode i &&& mask = match`, with the row's opcode as its match value. -/
def Statement (i : Instr) : Prop := encode i &&& 0x00000007#32 = i.opcode.setWidth 32

/-- In the one format, the mask of every row selects the opcode. -/
theorem commandWord_and_mask (iv key data : Byte) (dir mode : BitVec 1) (op : BitVec 3) :
    commandWord iv key data dir mode op &&& 0x00000007#32 = op.setWidth 32 := by
  ext i hi
  simp only [commandWord, BitVec.getElem_and, BitVec.getElem_append, BitVec.getElem_setWidth]
  by_cases h : i < 3
  · have : i = 0 ∨ i = 1 ∨ i = 2 := by omega
    rcases this with rfl | rfl | rfl <;> simp
  · have h7 : (0x00000007#32)[i] = false := by
      have : (7 : Nat).testBit i = false := Nat.testBit_lt_two_pow (by
        calc 7 < 2 ^ 3 := by decide
          _ ≤ 2 ^ i := Nat.pow_le_pow_right (by decide) (by omega))
      simpa [BitVec.getElem_eq_testBit_toNat] using this
    rw [h7]
    simp [BitVec.getLsbD_of_ge _ _ (Nat.le_of_not_lt h)]

theorem sub (data : Byte) : Statement (.sub data) := commandWord_and_mask ..
theorem perm (data : Byte) : Statement (.perm data) := commandWord_and_mask ..
theorem encb (data key : Byte) : Statement (.encb data key) := commandWord_and_mask ..
theorem start (mode : ChainMode) (dir : Direction) (key iv : Byte) : Statement (.start mode dir key iv) :=
  commandWord_and_mask ..
theorem data (byte : Byte) : Statement (.data byte) := commandWord_and_mask ..
theorem endCall : Statement .endCall := commandWord_and_mask ..
theorem reserved6 : Statement .reserved6 := commandWord_and_mask ..
theorem reserved7 : Statement .reserved7 := commandWord_and_mask ..

end Sys2Proof.Laws.TableRow
end

