-- ==== Sys2Proof/Laws/Step.lean ====
section
/-! SUPPORT. Everything a command, a step and a run can do, said once: a command is a function of the registers alone,
a step applies it to the host's next cycle, and a run repeats that. -/

namespace Sys2Proof.Machine

/-- The next registers and the output ports that a command gives from the registers. -/
def effect (i : Instr) (r : Regs) : Regs × PortOut :=
  match exec i { regs := r, out := PortOut.none, inputs := [] } with
  | .next t => (t.regs, t.out)
  | .fault _ => (r, PortOut.none)
  | .refused _ => (r, PortOut.none)

/-- The same for a whole cycle. -/
def cycleEffect (k : CycleKind) (r : Regs) : Regs × PortOut :=
  match k with
  | .reset => (Regs.reset, PortOut.none)
  | .noCommand => (r, PortOut.none)
  | .command i => effect i r

/-- The state that a pair of registers and ports makes with the cycles still to come. -/
def stateOf (e : Regs × PortOut) (cs : List ClockCycle) : State := { regs := e.1, out := e.2, inputs := cs }

@[simp] theorem stateOf_regs (e : Regs × PortOut) (cs : List ClockCycle) : (stateOf e cs).regs = e.1 := rfl
@[simp] theorem stateOf_out (e : Regs × PortOut) (cs : List ClockCycle) : (stateOf e cs).out = e.2 := rfl
@[simp] theorem stateOf_inputs (e : Regs × PortOut) (cs : List ClockCycle) : (stateOf e cs).inputs = cs := rfl

theorem exec_eq_effect (i : Instr) (s : State) : exec i s = .next (stateOf (effect i s.regs) s.inputs) := by
  obtain ⟨r, o, cs⟩ := s
  obtain ⟨active, mode, dir, key, prev⟩ := r
  cases i with
  | sub n => obtain ⟨-, h⟩ | ⟨-, h⟩ := nibbleOperand_cases n <;> simp only [effect, exec, execSub, h] <;> rfl
  | perm b => rfl
  | encb b k => rfl
  | start m d k iv => cases active <;> rfl
  | data b => cases active <;> cases mode <;> cases dir <;> rfl
  | endCall => cases active <;> rfl
  | reserved6 => rfl
  | reserved7 => rfl

theorem step_nil (s : State) (h : s.inputs = []) : step s = .next (stateOf (s.regs, PortOut.none) []) := by
  obtain ⟨r, o, cs⟩ := s
  cases h
  rfl

theorem step_cons (s : State) (c : ClockCycle) (rest : List ClockCycle) (h : s.inputs = c :: rest) :
    step s = .next (stateOf (cycleEffect c.kind s.regs) rest) := by
  rw [step, fetch_cons s c rest h]
  cases hk : c.kind with
  | reset => rfl
  | noCommand => rfl
  | command i => exact exec_eq_effect i (s.withInputs rest)

theorem outputs_cons (n : Nat) (s : State) (c : ClockCycle) (rest : List ClockCycle) (h : s.inputs = c :: rest) :
    outputs (n + 1) s =
      (cycleEffect c.kind s.regs).2 :: outputs n (stateOf (cycleEffect c.kind s.regs) rest) := by
  rw [outputs, step_cons s c rest h]
  rfl

theorem outputs_nil (n : Nat) (s : State) (h : s.inputs = []) : outputs n s = List.replicate n PortOut.none := by
  induction n generalizing s with
  | zero => rfl
  | succ n ih =>
    rw [outputs, step_nil s h, List.replicate_succ]
    exact congrArg _ (ih _ rfl)

theorem run_zero (s : State) : run 0 s = .next s := rfl

theorem run_succ {s t : State} (n : Nat) (h : step s = .next t) : run (n + 1) s = run n t := by
  rw [run, h]

theorem run_cons (n : Nat) (s : State) (c : ClockCycle) (rest : List ClockCycle) (h : s.inputs = c :: rest) :
    run (n + 1) s = run n (stateOf (cycleEffect c.kind s.regs) rest) :=
  run_succ n (step_cons s c rest h)

theorem core_run_next (M : Host.Core) (n : Nat) (s t : M.State) (h : M.step s = .next t) :
    M.run (n + 1) s = M.run n t := by
  rw [Host.Core.run, h]

/-- A run is the host's run of the machine: no step of it stops. -/
theorem run_eq_core_run (n : Nat) : ∀ s : State, Host.Core.run core n s = run n s := by
  induction n with
  | zero => exact fun _ => rfl
  | succ n ih =>
    intro s
    cases hs : s.inputs with
    | nil => exact (core_run_next core n s _ (step_nil s hs)).trans ((ih _).trans (run_succ n (step_nil s hs)).symm)
    | cons c rest =>
      exact (core_run_next core n s _ (step_cons s c rest hs)).trans ((ih _).trans (run_cons n s c rest hs).symm)

/-- What a run shows and does depends on the registers and on the cycles to come, not on the ports of the cycle
before. -/
theorem outputs_congr (n : Nat) (s t : State) (hr : s.regs = t.regs) (hi : s.inputs = t.inputs) :
    outputs n s = outputs n t := by
  cases n with
  | zero => rfl
  | succ n =>
    cases h : s.inputs with
    | nil => rw [outputs_nil _ s h, outputs_nil _ t (hi ▸ h)]
    | cons c rest => rw [outputs_cons n s c rest h, outputs_cons n t c rest (hi ▸ h), hr]

end Sys2Proof.Machine
end

