-- ==== Sys2Proof/Tests/Slice0.lean ====
section
/-! SUPPORT. Tests of single operations and steps, with expected values from the spec's tables and worked examples, and the
witnesses: for each statement with hypotheses, concrete states and operands that meet all of them together. -/

open Sys2Proof Sys2Proof.Machine Sys2Proof.Safety

namespace Sys2Proof.Tests

/-- The next state of an outcome. -/
def nextOf : Host.Outcome State Fault Refusal → Option State
  | .next t => some t
  | .fault _ => none
  | .refused _ => none

/-- The response word a command gets, and the registers after it. -/
def after (i : Instr) (r : Regs) : Option (RspWord × Regs) :=
  (nextOf (exec i { regs := r, out := PortOut.none, inputs := [] })).map fun t => (t.out.rsp, t.regs)

/-- An open call. -/
def openRegs (m : ChainMode) (d : Direction) (k p : Byte) : Regs :=
  { active := true, mode := m, dir := d, key := k, prev := p }

/-- A state with these registers and cycles to come. -/
def at' (r : Regs) (cs : List ClockCycle) : State := { regs := r, out := PortOut.none, inputs := cs }

/-- A cycle that presents a word. -/
def cmd (w : CmdWord) : ClockCycle := { rst := false, cmdValid := true, cmd := w }

/-! ### WellFormed: one ill-formed term for each check, and the value beside it that passes -/

theorem test_sub_operand_too_wide : (AsmLine.sub 256).wellFormed = false ∧ (AsmLine.sub 255).wellFormed = true := by decide
theorem test_perm_operand_too_wide : (AsmLine.perm 256).wellFormed = false ∧ (AsmLine.perm 255).wellFormed = true := by decide
theorem test_encb_byte_too_wide : (AsmLine.encb 256 0).wellFormed = false := by decide
theorem test_encb_key_too_wide : (AsmLine.encb 0 256).wellFormed = false ∧ (AsmLine.encb 255 255).wellFormed = true := by decide
theorem test_start_key_too_wide : (AsmLine.start .chained .encrypt 256 0).wellFormed = false := by decide
theorem test_start_iv_too_wide :
    (AsmLine.start .chained .encrypt 0 256).wellFormed = false ∧
      (AsmLine.start .chained .encrypt 255 255).wellFormed = true := by decide
theorem test_data_operand_too_wide : (AsmLine.data 256).wellFormed = false ∧ (AsmLine.data 255).wellFormed = true := by decide
theorem test_word_too_wide :
    (AsmLine.word 4294967296).wellFormed = false ∧ (AsmLine.word 4294967295).wellFormed = true := by decide
theorem test_enci_ill_formed : (Macro.enci 256 []).wellFormed = false ∧ (Macro.enci 0 [1, 256]).wellFormed = false := by decide
theorem test_deci_ill_formed : (Macro.deci 256 []).wellFormed = false ∧ (Macro.deci 0 [256]).wellFormed = false := by decide
theorem test_encc_ill_formed :
    (Macro.encc 256 0 []).wellFormed = false ∧ (Macro.encc 0 256 []).wellFormed = false ∧
      (Macro.encc 0 0 [256]).wellFormed = false := by decide
theorem test_decc_ill_formed :
    (Macro.decc 256 0 []).wellFormed = false ∧ (Macro.decc 0 256 []).wellFormed = false ∧
      (Macro.decc 0 0 [256]).wellFormed = false := by decide

/-! ### Config: the parameters of 00_scope.md R6 are those of the tables and the registers -/

theorem test_table_sizes : sboxRom.toList.length = Config.sboxDepth ∧ pmapRom.toList.length = Config.permutationSize := by
  decide
theorem test_register_bits : (Config.registerBits.map Prod.snd).sum = 19 := by decide

/-! ### Decode: words written out bit by bit from 30_encoding.md R61, fields iv, key, data, reserved, dir, mode, op -/

theorem test_decode_sub : decode 0b00000000_00000000_00001101_000_0_0_000#32 = .sub 0x0D#8 := by decide
/-- 95_test_vectors.md section 2.1, `.word 0xFFFF0DF8`: every ignored bit set. -/
theorem test_decode_sub_ignored_bits : decode 0b11111111_11111111_00001101_111_1_1_000#32 = .sub 0x0D#8 := by decide
theorem test_decode_perm : decode 0b00000000_00000000_01011001_000_0_0_001#32 = .perm 0x59#8 := by decide
theorem test_decode_encb : decode 0b00000000_10101010_11001101_000_0_0_010#32 = .encb 0xCD#8 0xAA#8 := by decide
theorem test_decode_start_chained :
    decode 0b01011010_00111100_00000000_000_0_1_011#32 = .start .chained .encrypt 0x3C#8 0x5A#8 := by decide
theorem test_decode_start_decrypt :
    decode 0b00000000_10101010_00000000_000_1_0_011#32 = .start .independent .decrypt 0xAA#8 0x00#8 := by decide
theorem test_decode_data_reserved_bits : decode 0b00000000_00000000_11001101_111_0_0_100#32 = .data 0xCD#8 := by decide
theorem test_decode_end : decode 0b00000000_00000000_00000000_000_0_0_101#32 = .endCall := by decide
theorem test_decode_reserved6 : decode 0b11111111_11111111_11111111_111_1_1_110#32 = .reserved6 := by decide
theorem test_decode_reserved7 : decode 0b00000000_00000000_00000000_000_0_0_111#32 = .reserved7 := by decide
theorem test_decodeBits_rejects_longer : decodeBits 40 0 = .error .longerThanACommandWord := rfl
theorem test_decodeTableWord : decodeTableWord 32 0x00AACD02 = some (.encb 0xCD#8 0xAA#8) := by decide
theorem test_withFetchWord :
    nextOf (step (State.reset.withFetchWord 32 0x00AACD02)) = some (at' Regs.reset []|>.withOut ⟨true, 0x096#10⟩) := by
  decide
/-- Assembling, 30_encoding.md R71's examples. -/
theorem test_encode_start : encode (.start .chained .encrypt 0xAA#8 0xAA#8) = 0xAAAA000B#32 := by decide
theorem test_asm_macro :
    (expand (.encc 0xAA 0xAA [0xCD, 0x99])).map asmWord =
      [some 0xAAAA000B#32, some 0x0000CD04#32, some 0x00009904#32, some 0x00000005#32] := by decide

/-! ### The pure functions: worked examples and table entries of the spec -/

/-- 95_test_vectors.md section 2.2, entries that a map read the wrong way round or LSB-first fails. -/
theorem test_perm_entries : perm 0x59#8 = 0x96#8 ∧ perm 0x02#8 = 0x08#8 ∧ perm 0x01#8 = 0x02#8 ∧ perm 0xAA#8 = 0x78#8 := by
  decide
/-- 95_test_vectors.md S1, S2 and section 2.3. -/
theorem test_round_entries :
    cipherRound 0xCD#8 0xAA#8 = 0x96#8 ∧ cipherRound 0x99#8 0xAA#8 = 0xB8#8 ∧ cipherRound 0xFF#8 0x00#8 = 0x4B#8 := by
  decide
/-- 95_test_vectors.md section 2.4, the ninth row. -/
theorem test_encCh_row :
    encCh [0x01#8, 0x23#8, 0x45#8, 0x67#8] 0xAA#8 0x5A#8 = [0xD1#8, 0x33#8, 0x5E#8, 0xD8#8] := by decide
theorem test_decCh_row :
    decCh [0x01#8, 0x23#8, 0x45#8, 0x67#8] 0xAA#8 0x5A#8 = [0x5F#8, 0xA3#8, 0xD8#8, 0x31#8] := by decide

/-! ### The commands, one step each: 95_test_vectors.md sections 2.1 to 2.6 and programs P1 to P8 -/

theorem test_sub : after (.sub 0x0D#8) Regs.reset = some (0x009#10, Regs.reset) := by decide
theorem test_sub_out_of_range :
    after (.sub 0x1D#8) (openRegs .chained .encrypt 0 0x7D#8) = some (0x100#10, openRegs .chained .encrypt 0 0x7D#8) := by
  decide
theorem test_perm_command : after (.perm 0x3A#8) Regs.reset = some (0x0B8#10, Regs.reset) := by decide
theorem test_encb_in_open_call :
    after (.encb 0xCD#8 0x55#8) (openRegs .chained .encrypt 0 0) = some (0x096#10, openRegs .chained .encrypt 0 0) := by
  decide
theorem test_start :
    after (.start .chained .decrypt 0x00#8 0xFF#8) Regs.reset = some (0x000#10, openRegs .chained .decrypt 0x00#8 0xFF#8) := by
  decide
theorem test_start_while_open :
    after (.start .independent .encrypt 0x01#8 0x02#8) (openRegs .chained .encrypt 0x00#8 0x7D#8) =
      some (0x300#10, openRegs .chained .encrypt 0x00#8 0x7D#8) := by decide
/-- P2, step 2: PREV takes the byte sent. -/
theorem test_data_chained_encrypt :
    after (.data 0xCD#8) (openRegs .chained .encrypt 0xAA#8 0xAA#8) =
      some (0x074#10, openRegs .chained .encrypt 0xAA#8 0x74#8) := by decide
/-- P3, step 2: PREV takes the byte consumed. -/
theorem test_data_chained_decrypt :
    after (.data 0x74#8) (openRegs .chained .decrypt 0xAA#8 0xAA#8) =
      some (0x026#10, openRegs .chained .decrypt 0xAA#8 0x74#8) := by decide
theorem test_end :
    after .endCall (openRegs .chained .encrypt 0xAA#8 0xB6#8) = some (0x000#10, Regs.reset) := by decide
theorem test_end_while_idle : after .endCall Regs.reset = some (0x300#10, Regs.reset) := by decide
theorem test_reserved6 : after .reserved6 Regs.reset = some (0x200#10, Regs.reset) := by decide
theorem test_reserved7 :
    after .reserved7 (openRegs .chained .encrypt 0 0x7D#8) = some (0x200#10, openRegs .chained .encrypt 0 0x7D#8) := by
  decide
/-- 95_test_vectors.md section 2.6, the last row: the command in a reset cycle is not executed. -/
theorem test_reset_ignores_command :
    nextOf (step (at' (openRegs .chained .encrypt 0 0xD1#8) [⟨true, true, 0x00000204#32⟩])) = some (at' Regs.reset []) := by
  decide
theorem test_idle_cycle :
    nextOf (step (at' (openRegs .chained .encrypt 0 0x7D#8) [ClockCycle.idle])) =
      some (at' (openRegs .chained .encrypt 0 0x7D#8) []) := by decide
theorem test_responses_are_those_of_the_commands :
    resultOf [cmd 0x00000D00#32, ClockCycle.idle, cmd 0x00000007#32] = [0x009#10, 0x200#10] := by decide
/-- R167: the machine conforms to itself. -/
theorem test_conforms : Conforms resultOf := fun _ => rfl

/-! ### Witnesses -/

/-- An idle state with cycles to come. -/
def idle (cs : List ClockCycle) : State := at' Regs.reset cs
/-- An idle state that no run reaches. -/
def idleJunk (cs : List ClockCycle) : State :=
  at' { active := false, mode := .chained, dir := .decrypt, key := 0x5A#8, prev := 0xC3#8 } cs
/-- An open state. -/
def opened (m : ChainMode) (d : Direction) (cs : List ClockCycle) : State := at' (openRegs m d 0xAA#8 0xAA#8) cs

theorem witness_OpcodeSelectsTheCommandAndItsFields :
    BitVec.extractLsb' 0 3 0xFFFFFFF8#32 = 0#3 ∧ BitVec.extractLsb' 0 3 0x00005901#32 = 1#3 ∧
    BitVec.extractLsb' 0 3 0x00AACD02#32 = 2#3 ∧ BitVec.extractLsb' 0 3 0xFFFFFFFB#32 = 3#3 ∧
    BitVec.extractLsb' 0 3 0x00009904#32 = 4#3 ∧ BitVec.extractLsb' 0 3 0x00000005#32 = 5#3 ∧
    BitVec.extractLsb' 0 3 0xFFFFFFFE#32 = 6#3 ∧ BitVec.extractLsb' 0 3 0xFFFFFFFF#32 = 7#3 := by decide

/-- Two START words that differ in every ignored bit, two SUB words likewise, and two independent START words that
differ in the `iv` field. -/
theorem witness_FieldsNotReadChangeNothing :
    (BitVec.extractLsb' 0 3 0xFFFF0DF8#32 = BitVec.extractLsb' 0 3 0x00000D00#32 ∧
      BitVec.extractLsb' 8 8 0xFFFF0DF8#32 = BitVec.extractLsb' 8 8 0x00000D00#32 ∧
      BitVec.extractLsb' 0 3 0xFFFF0DF8#32 = 0#3) ∧
    (BitVec.extractLsb' 0 3 0x5A3CFFEB#32 = BitVec.extractLsb' 0 3 0x5A3C000B#32 ∧
      BitVec.extractLsb' 0 3 0x5A3CFFEB#32 = 3#3 ∧
      BitVec.extractLsb' 16 8 0x5A3CFFEB#32 = BitVec.extractLsb' 16 8 0x5A3C000B#32 ∧
      BitVec.getLsbD 0x5A3CFFEB#32 3 = BitVec.getLsbD 0x5A3C000B#32 3 ∧
      BitVec.getLsbD 0x5A3CFFEB#32 4 = BitVec.getLsbD 0x5A3C000B#32 4 ∧
      BitVec.extractLsb' 24 8 0x5A3CFFEB#32 = BitVec.extractLsb' 24 8 0x5A3C000B#32) ∧
    (BitVec.extractLsb' 0 3 0x55AA0003#32 = 3#3 ∧ BitVec.getLsbD 0x55AA0003#32 3 = false ∧
      BitVec.extractLsb' 0 24 0x55AA0003#32 = BitVec.extractLsb' 0 24 0xFFAA0003#32 ∧ 0x55AA0003#32 ≠ 0xFFAA0003#32) := by
  decide

theorem witness_AssemblerLinesAreTheEncodingsOfTheirCommands :
    (AsmLine.sub 255).wellFormed = true ∧ (AsmLine.perm 0).wellFormed = true ∧ (AsmLine.encb 255 255).wellFormed = true ∧
    (AsmLine.start .chained .decrypt 255 255).wellFormed = true ∧ (AsmLine.data 255).wellFormed = true ∧
    (AsmLine.word 0xFFFFFFFF).wellFormed = true ∧ asmWord (.data 0x99) = some 0x00009904#32 := by decide

theorem witness_PermKeepsOnesAndXorAndHasOrderSeven : (0 < 1 ∧ 1 < 7) ∧ 0 < 6 ∧ 6 < 7 := by decide

theorem witness_RoundIsItsFiveSteps :
    0x0C#8 = 0xCD#8 >>> 4 &&& 0x0F#8 ∧ 0x0D#8 = 0xCD#8 &&& 0x0F#8 ∧ 0x09#8 = (sbox (BitVec.setWidth 4 0x0D#8)).setWidth 8 ∧
    0x05#8 = 0x0C#8 ^^^ 0x09#8 ∧ 0x59#8 = 0x05#8 <<< 4 ||| 0x09#8 := by decide

theorem witness_SubAnswersTheTableEntryOrInvalidInput :
    BitVec.extractLsb' 0 3 0x00000D00#32 = 0#3 ∧ BitVec.toNat 0x0F#8 ≤ 15 ∧ 15 < BitVec.toNat 0x10#8 := by decide
theorem witness_PermAnswersThePermutedByte : BitVec.extractLsb' 0 3 0x00005901#32 = 1#3 := by decide
theorem witness_EncbAnswersOneRoundOfItsByte : BitVec.extractLsb' 0 3 0x00AACD02#32 = 2#3 := by decide
theorem witness_StartOpensACallOrGetsProtocol :
    BitVec.extractLsb' 0 3 0xAAAA000B#32 = 3#3 ∧ (idleJunk []).regs.active = false ∧
      (opened .chained .encrypt []).regs.active = true := by decide
theorem witness_EndClearsTheRegistersOrGetsProtocol :
    BitVec.extractLsb' 0 3 0x00000005#32 = 5#3 ∧ (opened .chained .decrypt []).regs.active = true ∧
      (idleJunk []).regs.active = false := by decide
theorem witness_IndependentEncryptBeatAnswersTheRound :
    (opened .independent .encrypt []).regs.active = true ∧ (opened .independent .encrypt []).regs.mode = .independent ∧
      (opened .independent .encrypt []).regs.dir = .encrypt := by decide
theorem witness_IndependentDecryptBeatIsTheSameOperation :
    (opened .independent .decrypt []).regs.active = true ∧ (opened .independent .decrypt []).regs.mode = .independent ∧
      (opened .independent .decrypt []).regs.dir = .decrypt := by decide
theorem witness_ChainedEncryptBeatMixesThenRounds :
    (opened .chained .encrypt []).regs.active = true ∧ (opened .chained .encrypt []).regs.mode = .chained ∧
      (opened .chained .encrypt []).regs.dir = .encrypt ∧ 0x67#8 = 0xCD#8 ^^^ (opened .chained .encrypt []).regs.prev ∧
      0x74#8 = cipherRound 0x67#8 (opened .chained .encrypt []).regs.key := by decide
theorem witness_ChainedDecryptBeatRoundsThenMixes :
    (opened .chained .decrypt []).regs.active = true ∧ (opened .chained .decrypt []).regs.mode = .chained ∧
      (opened .chained .decrypt []).regs.dir = .decrypt ∧
      0x8C#8 = cipherRound 0x74#8 (opened .chained .decrypt []).regs.key ∧
      0x26#8 = 0x8C#8 ^^^ (opened .chained .decrypt []).regs.prev := by decide
theorem witness_DataNeedsAnOpenCallAndKeepsItsParameters :
    BitVec.extractLsb' 0 3 0x00009904#32 = 4#3 ∧ (idleJunk []).regs.active = false ∧
      (opened .chained .decrypt []).regs.active = true := by decide

/-- One state and cycle for each branch of the cycle's checks. -/
theorem witness_TheFirstApplicableCheckDecidesTheCycle :
    (opened .chained .encrypt [⟨true, true, 0x00000204#32⟩]).inputs = [⟨true, true, 0x00000204#32⟩] ∧
    (opened .chained .encrypt [ClockCycle.idle]).inputs = [ClockCycle.idle] ∧
    (opened .chained .encrypt [cmd 0xFFFFFFFE#32]).inputs = [cmd 0xFFFFFFFE#32] ∧
    (opened .chained .encrypt [cmd 0x02010003#32]).inputs = [cmd 0x02010003#32] ∧
    (idle [cmd 0x00000005#32]).inputs = [cmd 0x00000005#32] ∧ (idle [cmd 0x00001000#32]).inputs = [cmd 0x00001000#32] ∧
    (idle [cmd 0x00000F00#32]).inputs = [cmd 0x00000F00#32] := by decide

theorem witness_AFailedCommandLeavesNoTrace :
    (idle [cmd 0x00000005#32, cmd 0x00000D00#32]).inputs = [cmd 0x00000005#32, cmd 0x00000D00#32] ∧
    (cmd 0x00000005#32).rst = false ∧ (cmd 0x00000005#32).cmdValid = true ∧
    step (idle [cmd 0x00000005#32, cmd 0x00000D00#32]) =
      .next { regs := Regs.reset, out := ⟨true, 0x300#10⟩, inputs := [cmd 0x00000D00#32] } ∧
    rspStatus 0x300#10 ≠ 0#2 := ⟨rfl, rfl, rfl, rfl, by decide⟩

theorem witness_RetryingAFailedCommandNeverChangesItsOutcome :
    (idle [cmd 0x00001104#32, cmd 0x00001104#32, ClockCycle.idle]).inputs =
      List.replicate (1 + 1) ⟨false, true, 0x00001104#32⟩ ++ [ClockCycle.idle] ∧
    step (idle [cmd 0x00001104#32, cmd 0x00001104#32, ClockCycle.idle]) =
      .next { regs := Regs.reset, out := ⟨true, 0x300#10⟩, inputs := [cmd 0x00001104#32, ClockCycle.idle] } ∧
    rspStatus 0x300#10 ≠ 0#2 := ⟨rfl, rfl, by decide⟩

/-- A chained DATA, which may write PREV, and an independent one and a PERM, which may not. -/
theorem witness_OnlyTheListedCommandsWriteARegister :
    exec (.data 0xCD#8) (opened .chained .encrypt []) =
      .next { regs := openRegs .chained .encrypt 0xAA#8 0x74#8, out := ⟨true, 0x074#10⟩, inputs := [] } ∧
    exec (.data 0xCD#8) (opened .independent .encrypt []) =
      .next { regs := openRegs .independent .encrypt 0xAA#8 0xAA#8, out := ⟨true, 0x096#10⟩, inputs := [] } ∧
    exec (.perm 0x59#8) (opened .chained .encrypt []) =
      .next { regs := openRegs .chained .encrypt 0xAA#8 0xAA#8, out := ⟨true, 0x096#10⟩, inputs := [] } ∧
    Instr.data 0xCD#8 ≠ .endCall ∧ (∀ m d k iv, Instr.data 0xCD#8 ≠ .start m d k iv) ∧ Instr.perm 0x59#8 ≠ .endCall ∧
    (∀ m d k iv, Instr.perm 0x59#8 ≠ .start m d k iv) ∧ (∀ b, Instr.perm 0x59#8 ≠ .data b) ∧
    (opened .independent .encrypt []).regs.mode = .independent :=
  ⟨rfl, rfl, rfl, nofun, nofun, nofun, nofun, nofun, rfl⟩

theorem witness_RegisterFreeCommandsReadAndWriteNoRegister :
    (∀ m d k iv, Instr.sub 0x10#8 ≠ .start m d k iv) ∧ (∀ b, Instr.sub 0x10#8 ≠ .data b) ∧ Instr.sub 0x10#8 ≠ .endCall :=
  ⟨nofun, nofun, nofun⟩

/-- One cycle for each row of R110's table, in the idle and in the open state. -/
theorem witness_ControllerMovesOnlyByStartEndAndReset :
    (idle [cmd 0xAAAA000B#32]).inputs = [cmd 0xAAAA000B#32] ∧ (cmd 0xAAAA000B#32).kind = .command (.start .chained .encrypt 0xAA#8 0xAA#8) ∧
    (opened .chained .encrypt [cmd 0x0000CD04#32]).inputs = [cmd 0x0000CD04#32] ∧ (cmd 0x0000CD04#32).kind = .command (.data 0xCD#8) ∧
    (opened .chained .encrypt [cmd 0x00000005#32]).inputs = [cmd 0x00000005#32] ∧ (cmd 0x00000005#32).kind = .command .endCall ∧
    (cmd 0x00000F00#32).kind = .command (.sub 0x0F#8) ∧ (cmd 0x00001000#32).kind = .command (.sub 0x10#8) ∧
    (cmd 0x00000006#32).kind = .command .reserved6 ∧ ClockCycle.idle.kind = .noCommand ∧ ClockCycle.reset.kind = .reset := by
  decide

theorem witness_AStepRunsTheDecodedCommand :
    (idle [⟨true, true, 0x00000204#32⟩]).inputs = [⟨true, true, 0x00000204#32⟩] ∧
    (idle [ClockCycle.idle]).inputs = [ClockCycle.idle] ∧ ClockCycle.idle.rst = false ∧ ClockCycle.idle.cmdValid = false ∧
    (idle [cmd 0x00000D00#32]).inputs = [cmd 0x00000D00#32] ∧ (cmd 0x00000D00#32).rst = false ∧
    (cmd 0x00000D00#32).cmdValid = true := by decide
theorem witness_PastTheListedCyclesNoCommandIsPresented : (opened .chained .encrypt []).inputs = [] := by decide
theorem witness_AfterResetEveryRegisterIsZero :
    (opened .chained .decrypt [ClockCycle.reset]).inputs = [ClockCycle.reset] ∧ ClockCycle.reset.rst = true := by decide
theorem witness_ResetAbortsACallAndIgnoresCommands :
    [ClockCycle.reset, ⟨true, true, 0x00000204#32⟩] ≠ [] ∧
    (∀ c ∈ [ClockCycle.reset, ⟨true, true, 0x00000204#32⟩], c.rst = true) ∧
    (∀ w ∈ [0x00000204#32], BitVec.extractLsb' 0 3 w = 4#3) ∧
    (opened .chained .encrypt
      [ClockCycle.reset, ⟨true, true, 0x00000204#32⟩, ClockCycle.present 0x00000204#32]).inputs =
      [ClockCycle.reset, ⟨true, true, 0x00000204#32⟩] ++ ([0x00000204#32].map ClockCycle.present ++ []) :=
  ⟨by decide, by simp [ClockCycle.reset], by simp, rfl⟩
theorem witness_NoCommandCyclesKeepEveryRegister :
    (∀ c ∈ [ClockCycle.idle, ⟨false, false, 0x00000005#32⟩], c.rst = false ∧ c.cmdValid = false) ∧
    (opened .chained .encrypt [ClockCycle.idle, ⟨false, false, 0x00000005#32⟩, cmd 0x00000005#32]).inputs =
      [ClockCycle.idle, ⟨false, false, 0x00000005#32⟩] ++ [cmd 0x00000005#32] := by decide

/-- A command cycle, a reset cycle and a no-command cycle; two states with the same registers; a SUB, START and END. -/
theorem witness_EveryCommandCycleHasOneLegalResponse :
    (idle [cmd 0x00000D00#32]).inputs = [cmd 0x00000D00#32] ∧ (cmd 0x00000D00#32).kind = .command (.sub 0x0D#8) ∧
    (idle [ClockCycle.reset]).inputs = [ClockCycle.reset] ∧ (idle [ClockCycle.idle]).inputs = [ClockCycle.idle] ∧
    (cmd 0xAAAA000B#32).kind = .command (.start .chained .encrypt 0xAA#8 0xAA#8) ∧
    (cmd 0x00000005#32).kind = .command .endCall ∧
    (idle [ClockCycle.idle]).regs = ((idle []).withOut ⟨true, 0x009#10⟩).regs := by decide

/-- A state with the invariant whose step makes it idle. -/
theorem witness_EveryStepKeepsIdleMeansReset :
    IdleIsReset (opened .chained .encrypt [cmd 0x00000005#32]) ∧
    step (opened .chained .encrypt [cmd 0x00000005#32]) =
      .next { regs := Regs.reset, out := ⟨true, 0x000#10⟩, inputs := [] } := ⟨by decide, rfl⟩
theorem witness_TheOnlyReachableIdleStateIsTheResetState :
    Reachable { regs := Regs.reset, out := ⟨true, 0x009#10⟩, inputs := [] } ∧ Regs.reset.active = false :=
  ⟨.step (.start [cmd 0x00000D00#32]) rfl, rfl⟩
theorem witness_EveryStepLeavesLegalOutputs :
    step (idleJunk [cmd 0x00000005#32]) = .next ((idleJunk []).withOut ⟨true, 0x300#10⟩) := rfl

/-- The first and the last position of a sequence of two. -/
theorem witness_SequenceFunctionsMeetTheirDefinitions :
    [0xCD#8, 0x99#8][0]? = some 0xCD#8 ∧ (0xAA#8 :: encCh [0xCD#8, 0x99#8] 0xAA#8 0xAA#8)[0]? = some 0xAA#8 ∧
    [0xCD#8, 0x99#8][1]? = some 0x99#8 ∧ (0xAA#8 :: encCh [0xCD#8, 0x99#8] 0xAA#8 0xAA#8)[1]? = some 0x74#8 ∧
    (0xAA#8 :: [0xCD#8, 0x99#8])[1]? = some 0xCD#8 := by decide

/-- The call of program P5, steps 5 to 14, has fewer commands than cycles; here with one beat. -/
def callCycles : List ClockCycle :=
  [cmd 0x0000000B#32, cmd 0x00000D00#32, ClockCycle.idle, cmd 0x00000004#32, cmd 0x00000007#32, cmd 0x00000005#32]

theorem witness_ACallComputesItsSequenceFunction :
    (idle (callCycles ++ [ClockCycle.idle])).regs.active = false ∧
    (idle (callCycles ++ [ClockCycle.idle])).inputs = callCycles ++ [ClockCycle.idle] ∧
    (∀ c ∈ callCycles, c.rst = false) ∧
    callCycles.filterMap ClockCycle.chain? = callCommands .chained .encrypt 0x00#8 0x00#8 [0x00#8] := by decide

theorem witness_AnOpenRunHasDeliveredTheOutputOfItsPrefix :
    (idle [cmd 0x0000000B#32, cmd 0x00000004#32]).regs.active = false ∧
    (idle [cmd 0x0000000B#32, cmd 0x00000004#32]).inputs = [cmd 0x0000000B#32, cmd 0x00000004#32] ++ [] ∧
    (∀ c ∈ [cmd 0x0000000B#32, cmd 0x00000004#32], c.rst = false) ∧
    [cmd 0x0000000B#32, cmd 0x00000004#32].filterMap ClockCycle.chain? =
      .start .chained .encrypt 0x00#8 0x00#8 :: [0x00#8].map Instr.data := by decide

theorem witness_AMacroYieldsItsSourceOperation :
    (Macro.decc 255 255 [255, 0]).wellFormed = true ∧
    (idle ((expand (.decc 255 255 [255, 0])).map asmCycle)).regs.active = false ∧
    (idle ((expand (.decc 255 255 [255, 0])).map asmCycle)).inputs =
      (expand (.decc 255 255 [255, 0])).map asmCycle ++ [] := ⟨by decide, rfl, rfl⟩

theorem witness_RegisterFreeCyclesDoNotDisturbTheOthers :
    [cmd 0x0000000B#32, cmd 0x00000004#32, ClockCycle.reset, cmd 0x00000005#32] =
      [cmd 0x0000000B#32, cmd 0x00000D00#32, ClockCycle.idle, cmd 0x00000004#32, ClockCycle.reset, cmd 0x00000007#32,
        cmd 0x00000005#32].filter (fun c => c.rst || c.chain?.isSome) := by decide

theorem witness_ACallDependsOnNothingBeforeItsStart :
    (idle []).regs.active = false ∧ (idleJunk []).regs.active = false ∧ (∀ c ∈ callCycles, c.rst = false) ∧
    (∀ c ∈ [cmd 0x0000000B#32, cmd 0x00000004#32, cmd 0x00000005#32], c.rst = false) ∧
    callCycles.filterMap ClockCycle.chain? =
      .start .chained .encrypt 0x00#8 0x00#8 :: [.data 0x00#8, .endCall] ∧
    [cmd 0x0000000B#32, cmd 0x00000004#32, cmd 0x00000005#32].filterMap ClockCycle.chain? =
      .start .chained .encrypt 0x00#8 0x00#8 :: [.data 0x00#8, .endCall] := by decide

theorem witness_IndependentBeatsDependOnTheirOwnByteOnly :
    (opened .independent .decrypt [cmd 0x00009604#32, cmd 0x0000B804#32]).regs.active = true ∧
    (opened .independent .decrypt [cmd 0x00009604#32, cmd 0x0000B804#32]).regs.mode = .independent ∧
    (opened .independent .decrypt [cmd 0x00009604#32, cmd 0x0000B804#32]).inputs =
      [0x96#8, 0xB8#8].map (fun b => ClockCycle.present (encode (.data b))) ++ [] := by decide

theorem witness_IndependentDecryptRecoversNoByte : [0xCD#8, 0x99#8][1]? = some 0x99#8 := by decide
theorem witness_ChainedDecryptRecoversNoByte : [0xCD#8, 0x99#8][1]? = some 0x99#8 := by decide

/-- Two different bytes in the first, the second and the last place of a sequence; two different IVs. -/
theorem witness_AChangedByteChangesTheChainFromItsPosition :
    0xCD#8 ≠ 0xCC#8 ∧ 0 < ([] ++ 0xCD#8 :: [0x99#8, 0x11#8]).length ∧ 2 < ([] ++ 0xCD#8 :: [0x99#8, 0x11#8]).length ∧
    1 < ([0x99#8] ++ 0xCD#8 :: []).length ∧ 0xAA#8 ≠ 0xAB#8 ∧ 1 < [0xCD#8, 0x99#8].length := by decide

theorem witness_NoResponseDependsOnAnyKey :
    (opened .chained .encrypt [cmd 0x00FF0003#32]).regs =
      { (at' (openRegs .chained .encrypt 0x00#8 0xAA#8) []).regs with key := 0xAA#8 } ∧
    List.Forall₂ (fun c c' : ClockCycle =>
        c.rst = c'.rst ∧ c.cmdValid = c'.cmdValid ∧ c.cmd &&& 0xFF00FFFF#32 = c'.cmd &&& 0xFF00FFFF#32)
      (at' (openRegs .chained .encrypt 0x00#8 0xAA#8) [cmd 0x00120003#32]).inputs
      (opened .chained .encrypt [cmd 0x00FF0003#32]).inputs :=
  ⟨rfl, .cons (by decide) .nil⟩

theorem witness_PrevIsUnobservableInIndependentMode :
    (opened .independent .encrypt [cmd 0x0000CD04#32]).regs.active = true ∧
    (opened .independent .encrypt [cmd 0x0000CD04#32]).regs.mode = .independent ∧
    openRegs .independent .encrypt 0xAA#8 0x55#8 =
      { (opened .independent .encrypt [cmd 0x0000CD04#32]).regs with prev := 0x55#8 } := by decide

end Sys2Proof.Tests
end

section
/-! SUPPORT. What a cycle can do to the registers, said once, and the invariant of 10_state.md R34 derived from it. -/

namespace Sys2Proof.Proofs

open Sys2Proof.Machine Sys2Proof.Safety

/-! ### The registers after a cycle -/

theorem regs_eq_reset_iff (r : Regs) :
    r = Regs.reset ↔
      r.active = false ∧ r.mode = .independent ∧ r.dir = .encrypt ∧ r.key = 0x00#8 ∧ r.prev = 0x00#8 := by
  cases r
  simp [Regs.reset]

/-- A step gives the cycle that `fetch` takes its effect, with a cycle listed or none (R20). -/
theorem step_eq_cycleEffect (s : State) :
    step s = .next (stateOf (cycleEffect (fetch s).1 s.regs) s.inputs.tail) := by
  cases h : s.inputs with
  | nil => rw [step_nil s h, fetch_nil s h]; rfl
  | cons c rest => rw [step_cons s c rest h, fetch_cons s c rest h]; rfl

/-- A reset cycle ends in the reset registers with no response, whatever the state (R160). -/
theorem step_of_rst (s : State) (c : ClockCycle) (rest : List ClockCycle) (h : s.inputs = c :: rest)
    (hc : c.rst = true) : step s = .next (stateOf (Regs.reset, PortOut.none) rest) := by
  rw [step_cons s c rest h, kind_of_rst c hc]
  rfl

/-- Everything a command can do to the registers: START fills an idle block, DATA writes PREV of an open one, END clears
an open one, and nothing else writes (R110, R111, R112, R113). -/
theorem effect_regs_cases (i : Instr) (r : Regs) :
    (effect i r).1 = r ∨
    (∃ m d k iv, i = .start m d k iv ∧ r.active = false ∧
      (effect i r).1 = { active := true, mode := m, dir := d, key := k, prev := iv }) ∨
    (∃ b p, i = .data b ∧ r.active = true ∧ (r.mode = .independent → p = r.prev) ∧
      (effect i r).1 = { r with prev := p }) ∨
    (i = .endCall ∧ r.active = true ∧ (effect i r).1 = Regs.reset) := by
  cases i with
  | sub n =>
    obtain ⟨-, hn⟩ | ⟨-, hn⟩ := nibbleOperand_cases n <;> exact .inl (by simp [effect, exec, execSub, hn])
  | perm b => exact .inl rfl
  | encb b k => exact .inl rfl
  | start m d k iv =>
    cases ha : r.active with
    | true => exact .inl (by simp [effect, exec, execStart, ha])
    | false => exact .inr (.inl ⟨m, d, k, iv, rfl, rfl, by simp [effect, exec, execStart, ha]⟩)
  | data b =>
    cases ha : r.active with
    | true =>
      obtain ⟨d, p, hbeat, hp⟩ := beat_cases b { regs := r, out := PortOut.none, inputs := [] }
      exact .inr (.inr (.inl ⟨b, p, rfl, rfl, hp, by simp [effect, exec, execData, ha, hbeat]⟩))
    | false => exact .inl (by simp [effect, exec, execData, ha])
  | endCall =>
    cases ha : r.active with
    | true => exact .inr (.inr (.inr ⟨rfl, rfl, by simp [effect, exec, execEndCall, ha]⟩))
    | false => exact .inl (by simp [effect, exec, execEndCall, ha])
  | reserved6 => exact .inl rfl
  | reserved7 => exact .inl rfl

/-! ### The idle invariant -/

/-- A command keeps "idle means reset": only END closes a call, and it clears every register. -/
theorem effect_keeps_idle_reset (i : Instr) (r : Regs) (hr : r.active = false → r = Regs.reset)
    (hidle : (effect i r).1.active = false) : (effect i r).1 = Regs.reset := by
  obtain hsame | ⟨m, d, k, iv, -, -, hopen⟩ | ⟨b, p, -, hactive, -, hbeat⟩ | ⟨-, -, hclear⟩ := effect_regs_cases i r
  · rw [hsame] at hidle ⊢
    exact hr hidle
  · simp [hopen] at hidle
  · simp [hbeat, hactive] at hidle
  · exact hclear

theorem cycleEffect_keeps_idle_reset (k : CycleKind) (r : Regs) (hr : r.active = false → r = Regs.reset)
    (hidle : (cycleEffect k r).1.active = false) : (cycleEffect k r).1 = Regs.reset := by
  cases k with
  | reset => rfl
  | noCommand => exact hr hidle
  | command i => exact effect_keeps_idle_reset i r hr hidle

theorem idleIsReset_reset (cs : List ClockCycle) : IdleIsReset (State.reset.withInputs cs) := fun _ => rfl

theorem step_keeps_idleIsReset {s t : State} (hs : IdleIsReset s) (h : step s = .next t) : IdleIsReset t := by
  obtain rfl : stateOf _ _ = t := Host.Outcome.next.inj ((step_eq_cycleEffect s).symm.trans h)
  exact cycleEffect_keeps_idle_reset _ s.regs hs

theorem idleIsReset_of_reachable {s : State} (h : Reachable s) : IdleIsReset s := by
  induction h with
  | start cs => exact idleIsReset_reset cs
  | step _ hstep ih => exact step_keeps_idleIsReset ih hstep

/-! ### The statements of 10_state.md -/

/-- Settles O44: the idle invariant holds of every reachable state, and the reset registers are all zero. -/
theorem theOnlyReachableIdleStateIsTheResetState : Obligations.TheOnlyReachableIdleStateIsTheResetState := by
  intro s hs hidle
  exact ((regs_eq_reset_iff s.regs).1 (idleIsReset_of_reachable hs hidle)).2

/-- Settles O36: `State.reset` and every reset cycle hold `Regs.reset`, whose fields are all zero. -/
theorem afterResetEveryRegisterIsZero : Obligations.AfterResetEveryRegisterIsZero := by
  have hzero := (regs_eq_reset_iff Regs.reset).1 rfl
  refine ⟨hzero, fun s c rest hin hrst => ?_⟩
  exact ⟨_, step_of_rst s c rest hin hrst, hzero⟩

end Sys2Proof.Proofs
end

section
/-! SUPPORT. What an encoded command presents, and 20_memory.md R53: the beats of an open independent call are each a
function of their own byte, and none of them writes a register. -/

namespace Sys2Proof.Proofs

open Sys2Proof Sys2Proof.Machine

/-! ### An encoded command and its response -/

/-- Each field a command names is read back from its place in the one format (30_encoding.md R61, R71). -/
@[simp] theorem decode_encode (i : Instr) : decode (encode i) = i := by
  cases i <;> simp [encode, decode]

@[simp] theorem kind_present_encode (i : Instr) : (ClockCycle.present (encode i)).kind = .command i :=
  congrArg CycleKind.command (decode_encode i)

/-- The status code of OK is 0, so an OK response word is its data byte (30_encoding.md R66, R67). -/
theorem rspWord_ok (d : Byte) : rspWord .ok d = d.setWidth 10 :=
  (BitVec.setWidth_eq_append (by decide : 8 ≤ 10)).symm

/-! ### The beats of an open independent call -/

theorem beat_of_independent (b : Byte) (s : State) (hm : s.regs.mode = .independent) :
    beat b s = respond .ok (cipherRound b s.regs.key) s := by
  cases hd : s.regs.dir with
  | encrypt => simp only [beat, hm, hd, beatIndependentEncrypt]
  | decrypt => simp only [beat, hm, hd, beatIndependentDecrypt]

/-- The ports in the cycle of an independent beat (R114, R115). -/
def roundResponse (key b : Byte) : PortOut := { rspValid := true, rsp := (cipherRound b key).setWidth 10 }

theorem effect_data_of_independent (b : Byte) (r : Regs) (ha : r.active = true) (hm : r.mode = .independent) :
    effect (.data b) r = (r, roundResponse r.key b) := by
  have hbeat := beat_of_independent b { regs := r, out := PortOut.none, inputs := [] } hm
  simp [effect, exec, execData, ha, hbeat, roundResponse, rspWord_ok]

/-- The cycles of a host that presents one DATA command per byte. -/
def dataCycles (bs : List Byte) : List ClockCycle := bs.map fun b => ClockCycle.present (encode (.data b))

theorem cycleEffect_data_of_independent (b : Byte) (r : Regs) (ha : r.active = true) (hm : r.mode = .independent) :
    cycleEffect (ClockCycle.present (encode (.data b))).kind r = (r, roundResponse r.key b) := by
  rw [kind_present_encode]
  exact effect_data_of_independent b r ha hm

theorem outputs_dataCycles_of_independent (bs : List Byte) (s : State) (rest : List ClockCycle)
    (ha : s.regs.active = true) (hm : s.regs.mode = .independent) (hin : s.inputs = dataCycles bs ++ rest) :
    outputs bs.length s = bs.map (roundResponse s.regs.key) := by
  induction bs generalizing s with
  | nil => rfl
  | cons b bs ih =>
    rw [List.length_cons, outputs_cons _ s _ (dataCycles bs ++ rest) hin, cycleEffect_data_of_independent b _ ha hm,
      List.map_cons]
    exact congrArg _ (ih (stateOf (s.regs, _) _) ha hm rfl)

theorem run_dataCycles_of_independent (bs : List Byte) (s : State) (rest : List ClockCycle)
    (ha : s.regs.active = true) (hm : s.regs.mode = .independent) (hin : s.inputs = dataCycles bs ++ rest) :
    ∃ t, run bs.length s = .next t ∧ t.regs = s.regs ∧ t.inputs = rest := by
  induction bs generalizing s with
  | nil => exact ⟨s, rfl, rfl, hin⟩
  | cons b bs ih =>
    rw [List.length_cons, run_cons _ s _ (dataCycles bs ++ rest) hin, cycleEffect_data_of_independent b _ ha hm]
    exact ih (stateOf (s.regs, _) _) ha hm rfl

/-! ### The statements of 20_memory.md -/

/-- Settles O52, by induction on the bytes: each beat answers the round of its own byte and leaves the registers the
next beat starts from as they were. -/
theorem independentBeatsDependOnTheirOwnByteOnly : Obligations.IndependentBeatsDependOnTheirOwnByteOnly := by
  intro s bs rest ha hm hin
  exact ⟨outputs_dataCycles_of_independent bs s rest ha hm hin, run_dataCycles_of_independent bs s rest ha hm hin⟩

end Sys2Proof.Proofs
end

section
/-! SUPPORT. What the decoder answers for each opcode, which bits of a word it looks at, and 30_encoding.md R62, R63, R69
and R70: the bits it does not look at, the `iv` of an independent call and the cycles without a command change nothing. -/

namespace Sys2Proof.Proofs

open Sys2Proof Sys2Proof.Machine

/-! ### The decoder, opcode by opcode (R62) -/

theorem opField_cases (w : CmdWord) :
    opField w = 0#3 ∨ opField w = 1#3 ∨ opField w = 2#3 ∨ opField w = 3#3 ∨ opField w = 4#3 ∨ opField w = 5#3 ∨
      opField w = 6#3 ∨ opField w = 7#3 := by
  generalize opField w = op
  revert op
  decide

theorem decode_eq_sub {w : CmdWord} (h : opField w = 0#3) : decode w = .sub (dataField w) := by
  simp [decode, h]

theorem decode_eq_perm {w : CmdWord} (h : opField w = 1#3) : decode w = .perm (dataField w) := by
  simp [decode, h]

theorem decode_eq_encb {w : CmdWord} (h : opField w = 2#3) : decode w = .encb (dataField w) (keyField w) := by
  simp [decode, h]

theorem bitField_eq_one_iff (w : CmdWord) (i : Nat) : w.extractLsb' i 1 = 1#1 ↔ w.getLsbD i = true := by
  rw [BitVec.getLsbD_eq_extractLsb', beq_iff_eq]

theorem ofBit_modeField (w : CmdWord) :
    ChainMode.ofBit (modeField w) = if w.getLsbD 3 then .chained else .independent :=
  if_congr (bitField_eq_one_iff w 3) rfl rfl

theorem ofBit_dirField (w : CmdWord) :
    Direction.ofBit (dirField w) = if w.getLsbD 4 then .decrypt else .encrypt :=
  if_congr (bitField_eq_one_iff w 4) rfl rfl

/-- The two one-bit fields of START, read as bits of the word. -/
theorem decode_eq_start {w : CmdWord} (h : opField w = 3#3) :
    decode w = .start (if w.getLsbD 3 then .chained else .independent) (if w.getLsbD 4 then .decrypt else .encrypt)
      (keyField w) (ivField w) := by
  rw [← ofBit_modeField, ← ofBit_dirField]
  simp [decode, h]

theorem decode_eq_data {w : CmdWord} (h : opField w = 4#3) : decode w = .data (dataField w) := by
  simp [decode, h]

theorem decode_eq_endCall {w : CmdWord} (h : opField w = 5#3) : decode w = .endCall := by
  simp [decode, h]

theorem decode_eq_reserved6 {w : CmdWord} (h : opField w = 6#3) : decode w = .reserved6 := by
  simp [decode, h]

theorem decode_eq_reserved7 {w : CmdWord} (h : opField w = 7#3) : decode w = .reserved7 := by
  simp [decode, h]

/-! ### The bits a command does not read (R63, R69) -/

/-- Words that agree on the opcode and on the fields their command reads decode to one command. -/
theorem decode_congr {w v : CmdWord} (hop : opField w = opField v)
    (hdata : opField w = 0#3 ∨ opField w = 1#3 ∨ opField w = 2#3 ∨ opField w = 4#3 → dataField w = dataField v)
    (hkey : opField w = 2#3 ∨ opField w = 3#3 → keyField w = keyField v)
    (hstart : opField w = 3#3 →
      w.getLsbD 3 = v.getLsbD 3 ∧ w.getLsbD 4 = v.getLsbD 4 ∧ ivField w = ivField v) :
    decode w = decode v := by
  obtain h | h | h | h | h | h | h | h := opField_cases w <;> have h' := hop.symm.trans h
  · rw [decode_eq_sub h, decode_eq_sub h', hdata (by simp [h])]
  · rw [decode_eq_perm h, decode_eq_perm h', hdata (by simp [h])]
  · rw [decode_eq_encb h, decode_eq_encb h', hdata (by simp [h]), hkey (by simp [h])]
  · obtain ⟨hmode, hdir, hiv⟩ := hstart h
    rw [decode_eq_start h, decode_eq_start h', hmode, hdir, hkey (by simp [h]), hiv]
  · rw [decode_eq_data h, decode_eq_data h', hdata (by simp [h])]
  · rw [decode_eq_endCall h, decode_eq_endCall h']
  · rw [decode_eq_reserved6 h, decode_eq_reserved6 h']
  · rw [decode_eq_reserved7 h, decode_eq_reserved7 h']

/-- Independent START words that agree below the `iv` field open the same call, but for the `iv`. -/
theorem decode_independent_start_of_agree {w v : CmdWord} (hop : opField w = 3#3) (hmode : w.getLsbD 3 = false)
    (h : w.extractLsb' 0 24 = v.extractLsb' 0 24) :
    ∃ d k, decode w = .start .independent d k (ivField w) ∧ decode v = .start .independent d k (ivField v) := by
  have hfield (i len : Nat) (hi : i + len ≤ 24) : v.extractLsb' i len = w.extractLsb' i len := by
    rw [← BitVec.extractLsb'_extractLsb'_of_le hi, ← h, BitVec.extractLsb'_extractLsb'_of_le hi]
  have hbit (i : Nat) (hi : i + 1 ≤ 24) : v.getLsbD i = w.getLsbD i := by
    rw [BitVec.getLsbD_eq_extractLsb', hfield i 1 hi, ← BitVec.getLsbD_eq_extractLsb']
  have hopv : opField v = 3#3 := (hfield 0 3 (by decide)).trans hop
  have hkey : keyField v = keyField w := hfield 16 8 (by decide)
  refine ⟨if w.getLsbD 4 then .decrypt else .encrypt, keyField w, ?_, ?_⟩
  · rw [decode_eq_start hop, hmode]
    rfl
  · rw [decode_eq_start hopv, hbit 3 (by decide), hbit 4 (by decide), hmode, hkey]
    rfl

/-! ### What a command reads of the registers -/

/-- The ports in the cycle of a command that gets PROTOCOL (60_exceptions.md R142). -/
def protocolResponse : PortOut := { rspValid := true, rsp := rspWord .protocol 0x00#8 }

/-- A command that is not START, DATA or END answers the same in every state and writes no register (R68, R83, R93,
R106). -/
theorem effect_of_not_chainCommand (i : Instr) (h : chainCommand i = false) :
    ∃ o : PortOut, ∀ r : Regs, effect i r = (r, o) := by
  cases i with
  | sub n =>
    obtain ⟨-, hn⟩ | ⟨-, hn⟩ := nibbleOperand_cases n
    · exact ⟨⟨true, rspWord .ok ((sbox (rightNibble n)).setWidth 8)⟩, fun r => by simp [effect, exec, execSub, hn]⟩
    · exact ⟨⟨true, rspWord .invalidInput 0x00#8⟩, fun r => by simp [effect, exec, execSub, hn]⟩
  | perm b => exact ⟨_, fun _ => rfl⟩
  | encb b k => exact ⟨_, fun _ => rfl⟩
  | start m d k iv => nomatch h
  | data b => nomatch h
  | endCall => nomatch h
  | reserved6 => exact ⟨_, fun _ => rfl⟩
  | reserved7 => exact ⟨_, fun _ => rfl⟩

theorem effect_start_of_active (m : ChainMode) (d : Direction) (k iv : Byte) (r : Regs) (h : r.active = true) :
    effect (.start m d k iv) r = (r, protocolResponse) := by
  simp [effect, exec, execStart, h, protocolResponse]

theorem effect_start_of_idle (m : ChainMode) (d : Direction) (k iv : Byte) (r : Regs) (h : r.active = false) :
    effect (.start m d k iv) r =
      ({ active := true, mode := m, dir := d, key := k, prev := iv }, ⟨true, rspWord .ok 0x00#8⟩) := by
  simp [effect, exec, execStart, h]

theorem effect_endCall_of_active (r : Regs) (h : r.active = true) :
    effect .endCall r = (Regs.reset, ⟨true, rspWord .ok 0x00#8⟩) := by
  simp [effect, exec, execEndCall, h]

/-! ### PREV of an open independent call is hidden (10_state.md R25) -/

/-- The same registers, or those of an open independent call that differ in PREV alone. -/
def SameButHiddenPrev (r r' : Regs) : Prop :=
  r' = r ∨ r.active = true ∧ r.mode = .independent ∧ ∃ p, r' = { r with prev := p }

theorem effect_sameButHiddenPrev (i : Instr) {r r' : Regs} (h : SameButHiddenPrev r r') :
    (effect i r).2 = (effect i r').2 ∧ SameButHiddenPrev (effect i r).1 (effect i r').1 := by
  obtain rfl | ⟨ha, hm, p, rfl⟩ := id h
  · exact ⟨rfl, .inl rfl⟩
  have hfree (hi : chainCommand i = false) : (effect i r).2 = (effect i { r with prev := p }).2 ∧
      SameButHiddenPrev (effect i r).1 (effect i { r with prev := p }).1 := by
    obtain ⟨o, ho⟩ := effect_of_not_chainCommand i hi
    rw [ho, ho]
    exact ⟨rfl, h⟩
  cases i with
  | sub n => exact hfree rfl
  | perm b => exact hfree rfl
  | encb b k => exact hfree rfl
  | start m d k iv =>
    rw [effect_start_of_active m d k iv _ ha, effect_start_of_active m d k iv { r with prev := p } ha]
    exact ⟨rfl, h⟩
  | data b =>
    rw [effect_data_of_independent b _ ha hm, effect_data_of_independent b { r with prev := p } ha hm]
    exact ⟨rfl, h⟩
  | endCall =>
    rw [effect_endCall_of_active _ ha, effect_endCall_of_active { r with prev := p } ha]
    exact ⟨rfl, .inl rfl⟩
  | reserved6 => exact hfree rfl
  | reserved7 => exact hfree rfl

theorem cycleEffect_sameButHiddenPrev (k : CycleKind) {r r' : Regs} (h : SameButHiddenPrev r r') :
    (cycleEffect k r).2 = (cycleEffect k r').2 ∧ SameButHiddenPrev (cycleEffect k r).1 (cycleEffect k r').1 := by
  cases k with
  | reset => exact ⟨rfl, .inl rfl⟩
  | noCommand => exact ⟨rfl, h⟩
  | command i => exact effect_sameButHiddenPrev i h

theorem outputs_eq_of_sameButHiddenPrev (n : Nat) (s s' : State) (h : SameButHiddenPrev s.regs s'.regs)
    (hin : s.inputs = s'.inputs) : outputs n s = outputs n s' := by
  induction n generalizing s s' with
  | zero => rfl
  | succ n ih =>
    cases hs : s.inputs with
    | nil => rw [outputs_nil _ s hs, outputs_nil _ s' (hin ▸ hs)]
    | cons c rest =>
      obtain ⟨hout, hregs⟩ := cycleEffect_sameButHiddenPrev c.kind h
      rw [outputs_cons n s c rest hs, outputs_cons n s' c rest (hin ▸ hs), hout,
        ih (stateOf _ rest) (stateOf _ rest) hregs rfl]

/-- The `iv` of an independent START goes nowhere but into the hidden PREV. -/
theorem effect_independent_start_sameButHiddenPrev (d : Direction) (k iv iv' : Byte) (r : Regs) :
    (effect (.start .independent d k iv) r).2 = (effect (.start .independent d k iv') r).2 ∧
      SameButHiddenPrev (effect (.start .independent d k iv) r).1 (effect (.start .independent d k iv') r).1 := by
  cases ha : r.active with
  | true =>
    rw [effect_start_of_active _ d k iv r ha, effect_start_of_active _ d k iv' r ha]
    exact ⟨rfl, .inl rfl⟩
  | false =>
    rw [effect_start_of_idle _ d k iv r ha, effect_start_of_idle _ d k iv' r ha]
    exact ⟨rfl, .inr ⟨rfl, rfl, iv', rfl⟩⟩

/-! ### Cycles that keep every register -/

/-- Cycles that each leave the registers as they found them are answered from those registers, and what follows them
goes as it would have gone without them. -/
theorem outputs_of_regs_kept (cs : List ClockCycle) (n : Nat) (s : State) (rest : List ClockCycle)
    (hkeep : ∀ c ∈ cs, (cycleEffect c.kind s.regs).1 = s.regs) (hin : s.inputs = cs ++ rest) :
    outputs (cs.length + n) s =
      cs.map (fun c => (cycleEffect c.kind s.regs).2) ++ outputs n (s.withInputs rest) := by
  induction cs generalizing s with
  | nil => simpa using outputs_congr n s (s.withInputs rest) rfl hin
  | cons c cs ih =>
    obtain ⟨hc, hcs⟩ := List.forall_mem_cons.1 hkeep
    have htail := ih (stateOf (cycleEffect c.kind s.regs) (cs ++ rest)) (by rwa [stateOf_regs, hc]) rfl
    rw [stateOf_regs, hc] at htail
    have hrest : outputs n ((stateOf (cycleEffect c.kind s.regs) (cs ++ rest)).withInputs rest) =
        outputs n (s.withInputs rest) := outputs_congr n _ _ hc rfl
    rw [List.length_cons, Nat.succ_add, outputs_cons _ s c (cs ++ rest) hin, htail, hrest]
    rfl

theorem run_of_regs_kept (cs : List ClockCycle) (s : State) (rest : List ClockCycle)
    (hkeep : ∀ c ∈ cs, (cycleEffect c.kind s.regs).1 = s.regs) (hin : s.inputs = cs ++ rest) :
    ∃ t, run cs.length s = .next t ∧ t.regs = s.regs ∧ t.inputs = rest := by
  induction cs generalizing s with
  | nil => exact ⟨s, rfl, rfl, hin⟩
  | cons c cs ih =>
    obtain ⟨hc, hcs⟩ := List.forall_mem_cons.1 hkeep
    have htail := ih (stateOf (cycleEffect c.kind s.regs) (cs ++ rest)) (by rwa [stateOf_regs, hc]) rfl
    rwa [stateOf_regs, hc, ← run_cons _ s c (cs ++ rest) hin] at htail

/-! ### The statements of 30_encoding.md -/

/-- Settles O1, from the decoder's answer at each of the eight opcodes. -/
theorem opcodeSelectsTheCommandAndItsFields : Obligations.OpcodeSelectsTheCommandAndItsFields := fun _ =>
  ⟨decode_eq_sub, decode_eq_perm, decode_eq_encb, decode_eq_start, decode_eq_data, decode_eq_endCall,
    decode_eq_reserved6, decode_eq_reserved7⟩

/-- Settles O5: the words of the first part decode to one command; those of the second open calls that differ in the
hidden PREV alone. -/
theorem fieldsNotReadChangeNothing : Obligations.FieldsNotReadChangeNothing := by
  constructor
  · intro w v s rest hop hdata hkey hstart
    have hdecode : decode w = decode v := decode_congr hop hdata hkey hstart
    rw [step_cons _ _ rest rfl, step_cons (s.withInputs _) _ rest rfl, kind_of_command ⟨false, true, w⟩ rfl rfl,
      kind_of_command ⟨false, true, v⟩ rfl rfl, hdecode]
    rfl
  · intro w v s rest n hop hmode hlow
    obtain ⟨d, k, hw, hv⟩ := decode_independent_start_of_agree hop hmode hlow
    obtain ⟨hout, hregs⟩ := effect_independent_start_sameButHiddenPrev d k (ivField w) (ivField v) s.regs
    cases n with
    | zero => rfl
    | succ n =>
      rw [outputs_cons n _ _ rest rfl, outputs_cons n (s.withInputs (⟨false, true, v⟩ :: rest)) _ rest rfl,
        kind_of_command ⟨false, true, w⟩ rfl rfl, kind_of_command ⟨false, true, v⟩ rfl rfl, hw, hv]
      exact congrArg₂ List.cons hout (outputs_eq_of_sameButHiddenPrev n (stateOf _ rest) (stateOf _ rest) hregs rfl)

/-- Settles O38: a no-command cycle keeps the registers and gives no response, so any number of them do. -/
theorem noCommandCyclesKeepEveryRegister : Obligations.NoCommandCyclesKeepEveryRegister := by
  intro s cs rest hidle hin
  have heffect : ∀ c ∈ cs, cycleEffect c.kind s.regs = (s.regs, PortOut.none) := by
    intro c hc
    obtain ⟨hrst, hvalid⟩ := hidle c hc
    rw [kind_of_no_command c hrst hvalid]
    rfl
  have hkeep : ∀ c ∈ cs, (cycleEffect c.kind s.regs).1 = s.regs := fun c hc => congrArg Prod.fst (heffect c hc)
  have hnone : cs.map (fun c => (cycleEffect c.kind s.regs).2) = List.replicate cs.length ⟨false, 0#10⟩ :=
    List.map_eq_replicate_iff.2 fun c hc => congrArg Prod.snd (heffect c hc)
  obtain ⟨t, hrun, hregs, hinputs⟩ := run_of_regs_kept cs s rest hkeep hin
  exact ⟨t, hrun, hregs, hinputs, fun n => hnone ▸ outputs_of_regs_kept cs n s rest hkeep hin⟩

end Sys2Proof.Proofs
end

section
/-! SUPPORT. What SUB answers on each side of its range, and 40_sbox.md R80, R82 and R83: the table, its bijection and the
command. -/

namespace Sys2Proof.Proofs

open Sys2Proof Sys2Proof.Machine

/-! ### The table (R80, R82) -/

/-- No entry of the table stands at two addresses, checked pair by pair. -/
theorem sbox_injective : Function.Injective sbox :=
  fun n n' => (by decide : ∀ n n' : Nibble, sbox n = sbox n' → n = n') n n'

theorem sbox_ne_self : ∀ n : Nibble, sbox n ≠ n := by decide

/-! ### The SUB command (R83) -/

/-- The operand nibble is the low half of the data field. -/
theorem rightNibble_eq_setWidth (n : Byte) : rightNibble n = n.setWidth 4 :=
  (BitVec.setWidth_eq_extractLsb' (by decide : 4 ≤ 8)).symm

theorem execSub_of_le (n : Byte) (s : State) (h : n.toNat ≤ 15) :
    execSub n s = .next (respond .ok ((sbox (n.setWidth 4)).setWidth 8) s) := by
  obtain ⟨-, hn⟩ | ⟨hlt, -⟩ := nibbleOperand_cases n
  · rw [← rightNibble_eq_setWidth]
    simp only [execSub, hn]
  · omega

theorem execSub_of_lt (n : Byte) (s : State) (h : 15 < n.toNat) :
    execSub n s = .next (raise .invalidInput s) := by
  obtain ⟨hle, -⟩ | ⟨-, hn⟩ := nibbleOperand_cases n
  · omega
  · simp only [execSub, hn]

/-- An OK response whose data is a zero-extended nibble is that nibble zero-extended to the whole word (30_encoding.md
R66, R67). -/
theorem respond_ok_nibble (d : Nibble) (s : State) :
    respond .ok (d.setWidth 8) s = { s with out := { rspValid := true, rsp := d.setWidth 10 } } := by
  have hword : rspWord .ok (d.setWidth 8) = d.setWidth 10 :=
    (rspWord_ok _).trans (BitVec.setWidth_setWidth (by decide))
  rw [respond, hword]
  rfl

/-! ### The statements of 40_sbox.md -/

/-- Settles O7: the sixteen entries, read one by one. -/
theorem sboxRomHoldsItsSixteenEntries : Obligations.SboxRomHoldsItsSixteenEntries := by
  unfold Obligations.SboxRomHoldsItsSixteenEntries
  decide

/-- Settles O8: an injection of the finite set of nibbles into itself is a bijection. -/
theorem sboxIsABijectionWithoutFixedPoint : Obligations.SboxIsABijectionWithoutFixedPoint :=
  ⟨(Finite.injective_iff_bijective.1 sbox_injective).existsUnique, sbox_ne_self⟩

/-- Settles O15, from the decoder's answer at opcode 0 and what SUB answers on each side of its range. -/
theorem subAnswersTheTableEntryOrInvalidInput : Obligations.SubAnswersTheTableEntryOrInvalidInput :=
  ⟨fun _ => decode_eq_sub,
    fun n s h => (execSub_of_le n s h).trans (congrArg Host.Outcome.next (respond_ok_nibble (sbox (n.setWidth 4)) s)),
    execSub_of_lt⟩

end Sys2Proof.Proofs
end

section
/-! SUPPORT. Where PERM takes each bit from, counted from either end, and 41_permutation.md R90 to R93: the map, the wires,
the properties of the permutation and the command. -/

namespace Sys2Proof.Proofs

open Sys2Proof Sys2Proof.Machine

/-! ### The map and the wires (R90, R91) -/

theorem getMsbD_perm (b : Byte) (p : BitIndex) :
    (perm b).getMsbD p.toNat = b.getMsbD (memReadPmap p).toNat := by
  rw [perm, BitVec.getMsbD_ofBoolListBE]
  obtain ⟨i, hi⟩ := p
  interval_cases i <;> rfl

/-- The form of R91: `out[7 - p] = in[7 - map[p]]`. -/
theorem getLsbD_perm (b : Byte) (p : BitIndex) :
    (perm b).getLsbD (7 - p.toNat) = b.getLsbD (7 - (memReadPmap p).toNat) := by
  have h := getMsbD_perm b p
  rwa [BitVec.getMsbD_eq_getLsbD, BitVec.getMsbD_eq_getLsbD, decide_eq_true p.isLt,
    decide_eq_true (memReadPmap p).isLt, Bool.true_and, Bool.true_and] at h

theorem permFromMap_eq_perm (b : Byte) : permFromMap b = perm b := rfl

/-- Two bytes are equal when they agree at each of the eight positions. -/
theorem byte_ext {a b : Byte} (h : ∀ p : BitIndex, a.getMsbD p.toNat = b.getMsbD p.toNat) : a = b :=
  BitVec.eq_of_getMsbD_eq fun i hi => h (.ofFin ⟨i, hi⟩)

/-! ### The properties of the permutation (R92) -/

theorem perm_xor (a b : Byte) : perm (a ^^^ b) = perm a ^^^ perm b :=
  byte_ext fun p => by simp only [getMsbD_perm, BitVec.getMsbD_xor]

/-- Repeating the wires repeats the map. -/
theorem getMsbD_iterate_perm (n : Nat) (b : Byte) (p : BitIndex) :
    (perm^[n] b).getMsbD p.toNat = b.getMsbD (memReadPmap^[n] p).toNat := by
  induction n generalizing b with
  | zero => rfl
  | succ n ih => rw [Function.iterate_succ_apply, ih, getMsbD_perm, ← Function.iterate_succ_apply' memReadPmap]

/-- The map is a cycle of seven positions and a fixed one, so its seventh power moves no bit. -/
theorem iterate_seven_perm (b : Byte) : perm^[7] b = b := by
  have hmap : ∀ p : BitIndex, memReadPmap^[7] p = p := by decide
  exact byte_ext fun p => by rw [getMsbD_iterate_perm, hmap]

/-- Six more applications undo one. -/
theorem perm_injective : Function.Injective perm :=
  Function.LeftInverse.injective (g := perm^[6]) iterate_seven_perm

/-- The bit 0x01 is in the cycle of seven, so it comes back no earlier. -/
theorem repeat_perm_one_ne {n : Nat} (h0 : 0 < n) (h7 : n < 7) : Nat.repeat perm n 0x01#8 ≠ 0x01#8 :=
  (by decide : ∀ n < 7, 0 < n → Nat.repeat perm n 0x01#8 ≠ 0x01#8) n h7 h0

/-- The input bit that output bit `i` comes from, both counted from the least significant (R91). -/
def sourceBit (i : Nat) : Nat := 7 - (memReadPmap (BitVec.ofNat 3 (7 - i))).toNat

theorem getLsbD_perm_eq_sourceBit (b : Byte) {i : Nat} (hi : i < 8) :
    (perm b).getLsbD i = b.getLsbD (sourceBit i) := by
  have h := getLsbD_perm b (BitVec.ofNat 3 (7 - i))
  rwa [BitVec.toNat_ofNat, Nat.mod_eq_of_lt (by omega), Nat.sub_sub_self (by omega)] at h

/-- The source bits are the bits 0 to 7 in another order, so the ones are only counted in another order. -/
theorem countP_getLsbD_perm (b : Byte) :
    (List.range 8).countP (fun i => (perm b).getLsbD i) = (List.range 8).countP (fun i => b.getLsbD i) :=
  calc (List.range 8).countP (fun i => (perm b).getLsbD i)
    _ = (List.range 8).countP (b.getLsbD ∘ sourceBit) :=
      List.countP_congr fun _ hi => by rw [getLsbD_perm_eq_sourceBit b (List.mem_range.1 hi), Function.comp]
    _ = ((List.range 8).map sourceBit).countP b.getLsbD := List.countP_map.symm
    _ = (List.range 8).countP b.getLsbD :=
      (by decide : List.Perm ((List.range 8).map sourceBit) (List.range 8)).countP_eq _

/-! ### The PERM command (R93) -/

/-- An OK response is its data zero-extended to the whole word (30_encoding.md R66, R67). -/
theorem respond_ok_byte (d : Byte) (s : State) :
    respond .ok d s = { s with out := { rspValid := true, rsp := d.setWidth 10 } } := by
  rw [respond, rspWord_ok]
  rfl

/-! ### The statements of 41_permutation.md -/

/-- Settles O9: the entries of the map read one by one, and the wires as the table gives them. -/
theorem permTakesEachBitFromItsMapPosition : Obligations.PermTakesEachBitFromItsMapPosition :=
  ⟨by decide, getMsbD_perm⟩

/-- Settles O10: each wire is R91's equation at its position of the map, from 0 for bit 7 to 7 for bit 0. -/
theorem permIsTheEightWiresOfTheCircuit : Obligations.PermIsTheEightWiresOfTheCircuit := fun b =>
  ⟨⟨getLsbD_perm b 0, getLsbD_perm b 1, getLsbD_perm b 2, getLsbD_perm b 3, getLsbD_perm b 4, getLsbD_perm b 5,
    getLsbD_perm b 6, getLsbD_perm b 7⟩, permFromMap_eq_perm b⟩

/-- Settles O11, from the cycle of the map: it gives the order, the order gives the injection, and an injection of the
finite set of bytes into itself is a bijection. -/
theorem permKeepsOnesAndXorAndHasOrderSeven : Obligations.PermKeepsOnesAndXorAndHasOrderSeven :=
  ⟨(Finite.injective_iff_bijective.1 perm_injective).existsUnique, countP_getLsbD_perm, by decide, perm_xor, by decide,
    iterate_seven_perm, fun _ h0 h7 => ⟨0x01#8, repeat_perm_one_ne h0 h7⟩, by decide⟩

/-- Settles O16, from the decoder's answer at opcode 1 and the one response of PERM. -/
theorem permAnswersThePermutedByte : Obligations.PermAnswersThePermutedByte :=
  ⟨fun _ => decode_eq_perm, fun b s => congrArg Host.Outcome.next (respond_ok_byte (perm b) s)⟩

end Sys2Proof.Proofs
end

section
/-! SUPPORT. The round's steps as shifts and masks of bytes, the cycles of a map with periodic starts, and 42_round.md
R104 to R108: the five steps, the unused key, the ENCB command and the eight cycles. -/

namespace Sys2Proof.Proofs

open Sys2Proof Sys2Proof.Machine Function

/-! ### The five steps (R104) -/

/-- Keeping the low four bits of a byte is masking by 0xF (R101). -/
theorem setWidth_setWidth_four (b : Byte) : (b.setWidth 4).setWidth 8 = b &&& 0x0F#8 := by
  apply BitVec.eq_of_toNat_eq
  rw [BitVec.toNat_setWidth_of_le (by decide), BitVec.toNat_setWidth, BitVec.toNat_and]
  exact (Nat.and_two_pow_sub_one_eq_mod b.toNat 4).symm

theorem setWidth_leftNibble (b : Byte) : (leftNibble b).setWidth 8 = b >>> 4 &&& 0x0F#8 := by
  rw [leftNibble, ← BitVec.setWidth_ushiftRight_eq_extractLsb, setWidth_setWidth_four]

theorem setWidth_and_lowMask (b : Byte) : (b &&& 0x0F#8).setWidth 4 = rightNibble b := by
  rw [rightNibble_eq_setWidth, BitVec.setWidth_and]
  exact BitVec.and_allOnes

/-- Joining the mixed left nibble and the substituted right one is a shift and an OR (R103). -/
theorem fmix_eq_shiftLeft_or (l r : Nibble) :
    fmix l r = (l.setWidth 8 ^^^ r.setWidth 8) <<< 4 ||| r.setWidth 8 := by
  rw [fmix, ← BitVec.setWidth_xor, ← BitVec.setWidth_append_eq_shiftLeft_setWidth_or, BitVec.setWidth_eq]

/-! ### The cycles of a map (R108) -/

section Cycles

variable {α : Type} {f : α → α} {a b : α} {n m : Nat}

/-- A period is the minimal one when no proper divisor of it is a period. -/
theorem minimalPeriod_eq_of_dvd (hn : 0 < n) (h : IsPeriodicPt f n a)
    (hd : ∀ d < n, d ∣ n → f^[d] a ≠ a) : minimalPeriod f a = n := by
  have hdvd : minimalPeriod f a ∣ n := h.minimalPeriod_dvd
  exact (Nat.le_of_dvd hn hdvd).eq_of_not_lt fun hlt => hd _ hlt hdvd iterate_minimalPeriod

theorem coe_iterate_eq_periodicOrbit (h : minimalPeriod f a = n) :
    (List.iterate f a n : Cycle α) = periodicOrbit f a := by
  rw [periodicOrbit, h, List.range_map_iterate]

theorem nodup_iterate (h : minimalPeriod f a = n) : (List.iterate f a n).Nodup := by
  rw [← Cycle.nodup_coe_iff, coe_iterate_eq_periodicOrbit h]
  exact nodup_periodicOrbit

/-- Two cycles that meet are one cycle, which then holds both starts. -/
theorem disjoint_iterate (ha : a ∈ periodicPts f) (hb : b ∈ periodicPts f) (hn : minimalPeriod f a = n)
    (hnot : b ∉ List.iterate f a n) : List.Disjoint (List.iterate f a n) (List.iterate f b m) := by
  intro x hxa hxb
  obtain ⟨i, -, rfl⟩ := List.mem_iterate.1 hxa
  obtain ⟨j, -, hij⟩ := List.mem_iterate.1 hxb
  have horbit : periodicOrbit f a = periodicOrbit f b := by
    rw [← periodicOrbit_apply_iterate_eq ha i, hij, periodicOrbit_apply_iterate_eq hb]
  apply hnot
  rw [← Cycle.mem_coe_iff, coe_iterate_eq_periodicOrbit hn, horbit]
  exact self_mem_periodicOrbit hb

theorem getElem?_iterate_succ_mod (h : IsPeriodicPt f n a) {i : Nat} (hi : (List.iterate f a n)[i]? = some b) :
    (List.iterate f a n)[(i + 1) % n]? = some (f b) := by
  have hin : i < n := by simpa using (List.getElem?_eq_some_iff.1 hi).1
  obtain rfl : f^[i] a = b := by simpa [List.getElem?_iterate f a n i hin] using hi
  rw [List.getElem?_iterate f a n _ (Nat.mod_lt _ (by omega)), h.iterate_mod_apply, iterate_succ_apply']

end Cycles

/-! ### The eight cycles of the round (R108) -/

/-- For each cycle its length and its least byte. -/
def roundCycleStarts : List (Nat × Byte) :=
  [(4, 0x1B#8), (9, 0x42#8), (9, 0x62#8), (26, 0x00#8), (26, 0x1A#8), (36, 0x02#8), (60, 0x01#8), (86, 0x03#8)]

/-- The bytes of a cycle, each followed by its image under the round. -/
def roundCycle (k : Byte) (c : Nat × Byte) : List Byte := List.iterate (cipherRound · k) c.2 c.1

def roundCycles (k : Byte) : List (List Byte) := roundCycleStarts.map (roundCycle k)

/-- Each start comes back after its length, and after no proper divisor of it: run at one key, which stands for all. -/
theorem start_returns : ∀ c ∈ roundCycleStarts, 0 < c.1 ∧ (cipherRound · 0x00#8)^[c.1] c.2 = c.2 ∧
    ∀ d < c.1, d ∣ c.1 → (cipherRound · 0x00#8)^[d] c.2 ≠ c.2 := by
  decide +kernel

theorem start_notMem_earlier_cycle (k : Byte) :
    roundCycleStarts.Pairwise fun c c' => c'.2 ∉ roundCycle k c :=
  (by decide +kernel : roundCycleStarts.Pairwise fun c c' => c'.2 ∉ roundCycle 0x00#8 c)

theorem isPeriodicPt_start (k : Byte) {c : Nat × Byte} (hc : c ∈ roundCycleStarts) :
    IsPeriodicPt (cipherRound · k) c.1 c.2 := by
  obtain ⟨-, hreturn, -⟩ := start_returns c hc
  exact hreturn

theorem start_mem_periodicPts (k : Byte) {c : Nat × Byte} (hc : c ∈ roundCycleStarts) :
    c.2 ∈ periodicPts (cipherRound · k) :=
  mk_mem_periodicPts (start_returns c hc).1 (isPeriodicPt_start k hc)

theorem minimalPeriod_start (k : Byte) {c : Nat × Byte} (hc : c ∈ roundCycleStarts) :
    minimalPeriod (cipherRound · k) c.2 = c.1 := by
  obtain ⟨hpos, -, hdivisors⟩ := start_returns c hc
  exact minimalPeriod_eq_of_dvd hpos (isPeriodicPt_start k hc) hdivisors

theorem getElem?_roundCycle_succ (k : Byte) {c : Nat × Byte} (hc : c ∈ roundCycleStarts) {i : Nat} {b : Byte}
    (hi : (roundCycle k c)[i]? = some b) :
    (roundCycle k c)[(i + 1) % (roundCycle k c).length]? = some (cipherRound b k) := by
  rw [roundCycle, List.length_iterate]
  exact getElem?_iterate_succ_mod (isPeriodicPt_start k hc) hi

theorem nodup_flatten_roundCycles (k : Byte) : (roundCycles k).flatten.Nodup := by
  rw [List.nodup_flatten, roundCycles, List.forall_mem_map, List.pairwise_map]
  constructor
  · intro c hc
    exact nodup_iterate (minimalPeriod_start k hc)
  · refine (start_notMem_earlier_cycle k).imp_of_mem fun hc hc' hnot => ?_
    exact disjoint_iterate (start_mem_periodicPts k hc) (start_mem_periodicPts k hc') (minimalPeriod_start k hc) hnot

theorem map_length_roundCycles (k : Byte) : (roundCycles k).map List.length = [4, 9, 9, 26, 26, 36, 60, 86] := by
  simp [roundCycles, roundCycle, roundCycleStarts]

/-- Different bytes, and 256 of them: the cycles hold every byte. -/
theorem mem_flatten_roundCycles (k b : Byte) : b ∈ (roundCycles k).flatten := by
  have hcard : (roundCycles k).flatten.toFinset.card = Fintype.card Byte := by
    rw [List.toFinset_card_of_nodup (nodup_flatten_roundCycles k), List.length_flatten, map_length_roundCycles,
      ← FinEnum.card_eq_fintypeCard, FinEnum.card_bitVec]
    rfl
  exact List.mem_toFinset.1 (Finset.eq_univ_of_card _ hcard ▸ Finset.mem_univ b)

/-- Every byte lies in one of the cycles, so its period is that cycle's length. -/
theorem minimalPeriod_cipherRound_mem (k b : Byte) :
    minimalPeriod (cipherRound · k) b ∈ roundCycleStarts.map Prod.fst := by
  obtain ⟨l, hl, hb⟩ := List.mem_flatten.1 (mem_flatten_roundCycles k b)
  obtain ⟨c, hc, rfl⟩ := List.mem_map.1 hl
  obtain ⟨i, -, rfl⟩ := List.mem_iterate.1 hb
  rw [minimalPeriod_apply_iterate (start_mem_periodicPts k hc), minimalPeriod_start k hc]
  exact List.mem_map_of_mem hc

/-- Every byte comes back to itself, so it is an image. -/
theorem cipherRound_bijective (k : Byte) : Bijective (cipherRound · k) := by
  refine Finite.surjective_iff_bijective.1 fun c => periodicPts_subset_range ?_
  have hpos : ∀ n ∈ roundCycleStarts.map Prod.fst, 0 < n := by decide
  exact minimalPeriod_pos_iff_mem_periodicPts.1 (hpos _ (minimalPeriod_cipherRound_mem k c))

/-- No cycle has length 1 or 2. -/
theorem cipherRound_cipherRound_ne (k b : Byte) : cipherRound (cipherRound b k) k ≠ b := by
  intro h
  have hdvd : minimalPeriod (cipherRound · k) b ∣ 2 := IsPeriodicPt.minimalPeriod_dvd h
  exact (by decide : ∀ n ∈ roundCycleStarts.map Prod.fst, ¬ n ∣ 2) _ (minimalPeriod_cipherRound_mem k b) hdvd

/-- A fixed point would be undone by a second round. -/
theorem cipherRound_ne_self (k b : Byte) : cipherRound b k ≠ b := fun h =>
  cipherRound_cipherRound_ne k b ((congrArg (cipherRound · k) h).trans h)

/-! ### The statements of 42_round.md -/

/-- Settles O12: the nibbles are read by shift and mask, and joined by shift and OR. -/
theorem roundIsItsFiveSteps : Obligations.RoundIsItsFiveSteps := by
  rintro byte key _ _ _ _ _ rfl rfl rfl rfl rfl
  rw [cipherRound, fmix_eq_shiftLeft_or, setWidth_leftNibble, setWidth_and_lowMask]

/-- Settles O13: the key is an argument of `cipherRound` that none of its steps reads. -/
theorem roundDoesNotUseTheKey : Obligations.RoundDoesNotUseTheKey := fun _ _ _ => rfl

/-- Settles O14: the eight cycles are run from their starts, and the rest follows from them. -/
theorem roundPermutesTheBytesInEightCycles : Obligations.RoundPermutesTheBytesInEightCycles := fun k =>
  ⟨(cipherRound_bijective k).existsUnique, cipherRound_ne_self k, cipherRound_cipherRound_ne k,
    roundCycles k, map_length_roundCycles k, nodup_flatten_roundCycles k,
    List.forall_mem_map.2 fun _ hc _ _ => getElem?_roundCycle_succ k hc⟩

/-- Settles O17, from the decoder's answer at opcode 2 and the one response of ENCB. -/
theorem encbAnswersOneRoundOfItsByte : Obligations.EncbAnswersOneRoundOfItsByte :=
  ⟨fun _ => decode_eq_encb, fun b k s => congrArg Host.Outcome.next (respond_ok_byte (cipherRound b k) s)⟩

end Sys2Proof.Proofs
end

section
/-! SUPPORT. What each command of a call does to the registers, the answers of a list of START, DATA and END commands,
and 43_chaining.md R110 to R129: the controller, the four beats, the sequence functions and whole calls. -/

namespace Sys2Proof.Proofs

open Sys2Proof Sys2Proof.Machine

/-! ### START, DATA and END, idle and open (R110 to R113) -/

theorem effect_data_of_idle (b : Byte) (r : Regs) (h : r.active = false) :
    effect (.data b) r = (r, protocolResponse) := by
  simp [effect, exec, execData, h, protocolResponse]

theorem effect_endCall_of_idle (r : Regs) (h : r.active = false) : effect .endCall r = (r, protocolResponse) := by
  simp [effect, exec, execEndCall, h, protocolResponse]

theorem effect_data_of_active (b : Byte) (r : Regs) (h : r.active = true) :
    ∃ d p, effect (.data b) r = ({ r with prev := p }, ⟨true, rspWord .ok d⟩) ∧
      (r.mode = .independent → p = r.prev) := by
  obtain ⟨d, p, hbeat, hp⟩ := beat_cases b { regs := r, out := PortOut.none, inputs := [] }
  exact ⟨d, p, by simp [effect, exec, execData, h, hbeat], hp⟩

theorem effect_sub_of_le (n : Byte) (r : Regs) (h : n.toNat ≤ 15) :
    effect (.sub n) r = (r, ⟨true, rspWord .ok ((sbox (n.setWidth 4)).setWidth 8)⟩) := by
  simp [effect, exec, execSub_of_le n _ h]

theorem exec_data_of_active (b : Byte) (s : State) (h : s.regs.active = true) : exec (.data b) s = .next (beat b s) :=
  if_pos h

/-- An independent beat is the same in either direction (R114, R115). -/
theorem exec_data_of_independent (b : Byte) (s : State) (ha : s.regs.active = true) (hm : s.regs.mode = .independent) :
    exec (.data b) s = .next { s with out := { rspValid := true, rsp := (cipherRound b s.regs.key).setWidth 10 } } := by
  rw [exec_data_of_active b s ha, beat_of_independent b s hm, respond_ok_byte]

theorem beat_of_chained_encrypt (b : Byte) (s : State) (hm : s.regs.mode = .chained) (hd : s.regs.dir = .encrypt) :
    beat b s = beatChainedEncrypt b s := by
  simp only [beat, hm, hd]

theorem beat_of_chained_decrypt (b : Byte) (s : State) (hm : s.regs.mode = .chained) (hd : s.regs.dir = .decrypt) :
    beat b s = beatChainedDecrypt b s := by
  simp only [beat, hm, hd]

/-- Every command gets a response (30_encoding.md R66). -/
theorem effect_rspValid (i : Instr) (r : Regs) : (effect i r).2.rspValid = true := by
  cases i with
  | sub n => obtain ⟨-, hn⟩ | ⟨-, hn⟩ := nibbleOperand_cases n <;> simp [effect, exec, execSub, hn]
  | perm b => rfl
  | encb b k => rfl
  | start m d k iv =>
    cases ha : r.active with
    | true => rw [effect_start_of_active m d k iv r ha]; rfl
    | false => rw [effect_start_of_idle m d k iv r ha]
  | data b =>
    cases ha : r.active with
    | true =>
      obtain ⟨d, p, hbeat, -⟩ := effect_data_of_active b r ha
      rw [hbeat]
    | false => rw [effect_data_of_idle b r ha]; rfl
  | endCall =>
    cases ha : r.active with
    | true => rw [effect_endCall_of_active r ha]
    | false => rw [effect_endCall_of_idle r ha]; rfl
  | reserved6 => rfl
  | reserved7 => rfl

/-! ### The sequence functions (R119 to R122) -/

@[simp] theorem length_encCh (bs : List Byte) (k iv : Byte) : (encCh bs k iv).length = bs.length := by
  induction bs generalizing iv with
  | nil => rfl
  | cons b bs ih => exact congrArg Nat.succ (ih _)

@[simp] theorem length_decCh (bs : List Byte) (k iv : Byte) : (decCh bs k iv).length = bs.length := by
  induction bs generalizing iv with
  | nil => rfl
  | cons c cs ih => exact congrArg Nat.succ (ih _)

theorem length_callResult (m : ChainMode) (d : Direction) (k iv : Byte) (bs : List Byte) :
    (callResult m d k iv bs).length = bs.length := by
  cases m with
  | independent => cases d <;> exact List.length_map _
  | chained =>
    cases d with
    | encrypt => exact length_encCh bs k iv
    | decrypt => exact length_decCh bs k iv

theorem getElem?_encInd {bs : List Byte} {i : Nat} {b : Byte} (k : Byte) (hb : bs[i]? = some b) :
    (encInd bs k)[i]? = some (cipherRound b k) := by
  rw [encInd, List.getElem?_map, hb, Option.map_some]

theorem getElem?_encCh {bs : List Byte} {i : Nat} {b p : Byte} (k iv : Byte) (hb : bs[i]? = some b)
    (hp : (iv :: encCh bs k iv)[i]? = some p) : (encCh bs k iv)[i]? = some (cipherRound (b ^^^ p) k) := by
  induction bs generalizing iv i with
  | nil => nomatch hb
  | cons a bs ih =>
    cases i with
    | zero => cases hb; cases hp; rfl
    | succ i => exact ih _ hb hp

theorem getElem?_decCh {cs : List Byte} {i : Nat} {c p : Byte} (k iv : Byte) (hc : cs[i]? = some c)
    (hp : (iv :: cs)[i]? = some p) : (decCh cs k iv)[i]? = some (cipherRound c k ^^^ p) := by
  induction cs generalizing iv i with
  | nil => nomatch hc
  | cons a cs ih =>
    cases i with
    | zero => cases hc; cases hp; rfl
    | succ i => exact ih _ hc hp

theorem encCh_key_irrelevant (bs : List Byte) (k1 k2 iv : Byte) : encCh bs k1 iv = encCh bs k2 iv := by
  induction bs generalizing iv with
  | nil => rfl
  | cons b bs ih => exact congrArg (List.cons _) (ih _)

theorem decCh_key_irrelevant (cs : List Byte) (k1 k2 iv : Byte) : decCh cs k1 iv = decCh cs k2 iv := by
  induction cs generalizing iv with
  | nil => rfl
  | cons c cs ih => exact congrArg (List.cons _) (ih _)

/-! ### Decryption recovers nothing (R125, R126) -/

theorem decInd_encInd (bs : List Byte) (k : Byte) :
    decInd (encInd bs k) k = bs.map fun b => cipherRound (cipherRound b k) k :=
  List.map_map

/-- A recovered byte would be a mixed byte that the round undoes. -/
theorem getElem?_decCh_encCh_ne {bs : List Byte} {i : Nat} {b : Byte} (k iv : Byte) (hb : bs[i]? = some b) :
    (decCh (encCh bs k iv) k iv)[i]? ≠ some b := by
  induction bs generalizing iv i with
  | nil => nomatch hb
  | cons a bs ih =>
    cases i with
    | zero =>
      cases hb
      intro h
      have hround : cipherRound (cipherRound (b ^^^ iv) k) k ^^^ iv = b := Option.some.inj h
      have hundone : cipherRound (cipherRound (b ^^^ iv) k) k = b ^^^ iv := by
        calc cipherRound (cipherRound (b ^^^ iv) k) k
          _ = cipherRound (cipherRound (b ^^^ iv) k) k ^^^ iv ^^^ iv := by simp
          _ = b ^^^ iv := congrArg (· ^^^ iv) hround
      exact cipherRound_cipherRound_ne k (b ^^^ iv) hundone
    | succ i => exact ih _ hb

/-! ### What a changed byte changes (R128) -/

theorem cipherRound_xor_ne {b b' p p' : Byte} (k : Byte) (h : b ^^^ p ≠ b' ^^^ p') :
    cipherRound (b ^^^ p) k ≠ cipherRound (b' ^^^ p') k :=
  (cipherRound_bijective k).injective.ne h

/-- A changed chaining value changes every cipher byte: each is the chaining value of the next. -/
theorem getElem?_encCh_ne_of_iv_ne {bs : List Byte} {i : Nat} {iv iv' : Byte} (k : Byte) (hiv : iv ≠ iv')
    (hi : i < bs.length) : (encCh bs k iv)[i]? ≠ (encCh bs k iv')[i]? := by
  induction bs generalizing iv iv' i with
  | nil => nomatch hi
  | cons b bs ih =>
    have hne : cipherRound (b ^^^ iv) k ≠ cipherRound (b ^^^ iv') k := cipherRound_xor_ne k (by simpa using hiv)
    cases i with
    | zero => exact fun h => hne (Option.some.inj h)
    | succ i => exact ih hne (Nat.lt_of_succ_lt_succ hi)

/-- A changed chaining value changes the first plain byte alone: the next chaining value is the byte consumed. -/
theorem getElem?_decCh_eq_iff_of_iv_ne {cs : List Byte} {i : Nat} {iv iv' : Byte} (k : Byte) (hiv : iv ≠ iv')
    (hi : i < cs.length) : (decCh cs k iv)[i]? = (decCh cs k iv')[i]? ↔ i ≠ 0 := by
  cases cs with
  | nil => nomatch hi
  | cons c cs =>
    cases i with
    | zero => simpa [decCh] using hiv
    | succ i => simp [decCh]

theorem getElem?_encCh_eq_iff_of_byte_ne (pre : List Byte) {post : List Byte} {i : Nat} {b b' : Byte} (k iv : Byte)
    (hb : b ≠ b') (hi : i < (pre ++ b :: post).length) :
    (encCh (pre ++ b :: post) k iv)[i]? = (encCh (pre ++ b' :: post) k iv)[i]? ↔ i < pre.length := by
  induction pre generalizing iv i with
  | nil =>
    have hne : cipherRound (b ^^^ iv) k ≠ cipherRound (b' ^^^ iv) k := cipherRound_xor_ne k (by simpa using hb)
    refine iff_of_false ?_ (Nat.not_lt_zero i)
    cases i with
    | zero => simpa [encCh] using hne
    | succ i => simpa [encCh] using getElem?_encCh_ne_of_iv_ne (bs := post) k hne (Nat.lt_of_succ_lt_succ hi)
  | cons a pre ih =>
    cases i with
    | zero => exact iff_of_true rfl (Nat.succ_pos _)
    | succ i => simpa [encCh] using ih _ (Nat.lt_of_succ_lt_succ hi)

theorem getElem?_decCh_eq_iff_of_byte_ne (pre : List Byte) {post : List Byte} {i : Nat} {b b' : Byte} (k iv : Byte)
    (hb : b ≠ b') (hi : i < (pre ++ b :: post).length) :
    (decCh (pre ++ b :: post) k iv)[i]? = (decCh (pre ++ b' :: post) k iv)[i]? ↔
      i ≠ pre.length ∧ i ≠ pre.length + 1 := by
  induction pre generalizing iv i with
  | nil =>
    cases i with
    | zero => simpa [decCh] using (cipherRound_bijective k).injective.ne hb
    | succ i => simpa [decCh] using getElem?_decCh_eq_iff_of_iv_ne k hb (Nat.lt_of_succ_lt_succ hi)
  | cons a pre ih =>
    cases i with
    | zero => simp [decCh]
    | succ i => simpa [decCh] using ih a (Nat.lt_of_succ_lt_succ hi)

/-! ### The answers of a list of commands -/

/-- The commands, each with its response, when they are run one after the other from these registers. -/
def answers : List Instr → Regs → List (Instr × RspWord)
  | [], _ => []
  | i :: is, r => (i, (effect i r).2.rsp) :: answers is (effect i r).1

/-- The registers that those commands leave. -/
def regsAfter (is : List Instr) (r : Regs) : Regs := is.foldl (fun r i => (effect i r).1) r

theorem map_fst_answers (is : List Instr) (r : Regs) : (answers is r).map Prod.fst = is := by
  induction is generalizing r with
  | nil => rfl
  | cons i is ih => exact congrArg (List.cons i) (ih _)

theorem answers_append (is js : List Instr) (r : Regs) :
    answers (is ++ js) r = answers is r ++ answers js (regsAfter is r) := by
  induction is generalizing r with
  | nil => rfl
  | cons i is ih => exact congrArg (List.cons _) (ih _)

theorem regsAfter_append (is js : List Instr) (r : Regs) :
    regsAfter (is ++ js) r = regsAfter js (regsAfter is r) := List.foldl_append

/-! ### Streams with other cycles between the commands (R118) -/

theorem chain?_eq_some_iff (c : ClockCycle) (i : Instr) :
    c.chain? = some i ↔ c.kind = .command i ∧ chainCommand i = true := by
  rw [ClockCycle.chain?]
  cases c.kind with
  | reset => simp
  | noCommand => simp
  | command j =>
    rw [Option.ite_none_right_eq_some, CycleKind.command.injEq, Option.some.injEq]
    exact ⟨fun ⟨hj, hij⟩ => ⟨hij, hij ▸ hj⟩, fun ⟨hij, hi⟩ => ⟨hij ▸ hi, hij⟩⟩

/-- A cycle without START, DATA, END or reset writes no register. -/
theorem cycleEffect_regs_of_chain?_none (c : ClockCycle) (r : Regs) (hrst : c.rst = false) (hc : c.chain? = none) :
    (cycleEffect c.kind r).1 = r := by
  cases hk : c.kind with
  | reset => cases hv : c.cmdValid <;> simp [ClockCycle.kind, hrst, hv] at hk
  | noCommand => rfl
  | command i =>
    have hi : chainCommand i = false := by simpa [hc, hk] using chain?_eq_some_iff c i
    obtain ⟨o, ho⟩ := effect_of_not_chainCommand i hi
    exact congrArg Prod.fst (ho r)

/-- The first cycle of a stream adds its own response if it presents a START, DATA or END. -/
theorem chainResponses_cons (c : ClockCycle) (cs rest : List ClockCycle) (s : State) (hin : s.inputs = c :: rest) :
    chainResponses (c :: cs) (outputs (cs.length + 1) s) =
      (c.chain?.map fun i => (i, (cycleEffect c.kind s.regs).2.rsp)).toList ++
        chainResponses cs (outputs cs.length (stateOf (cycleEffect c.kind s.regs) rest)) := by
  rw [outputs_cons _ s c rest hin, chainResponses, List.zip_cons_cons]
  cases hchain : c.chain? with
  | none =>
    rw [List.filterMap_cons_none (by rw [hchain]; rfl)]
    rfl
  | some i =>
    obtain ⟨hkind, -⟩ := (chain?_eq_some_iff c i).1 hchain
    have hresponse : (cycleEffect c.kind s.regs).2.response? = some (cycleEffect c.kind s.regs).2.rsp := by
      rw [hkind]
      exact if_pos (effect_rspValid i s.regs)
    rw [List.filterMap_cons_some (by rw [hchain, hresponse]; rfl)]
    rfl

/-- A stream without reset answers its START, DATA and END commands as if there were nothing else in it. -/
theorem stream_answers (cs rest : List ClockCycle) (s : State) (hin : s.inputs = cs ++ rest)
    (hrst : ∀ c ∈ cs, c.rst = false) :
    chainResponses cs (outputs cs.length s) = answers (cs.filterMap ClockCycle.chain?) s.regs ∧
      ∃ t, run cs.length s = .next t ∧ t.regs = regsAfter (cs.filterMap ClockCycle.chain?) s.regs ∧
        t.inputs = rest := by
  induction cs generalizing s with
  | nil => exact ⟨rfl, s, rfl, rfl, hin⟩
  | cons c cs ih =>
    obtain ⟨hc, hcs⟩ := List.forall_mem_cons.1 hrst
    obtain ⟨hanswers, hrun⟩ := ih (stateOf (cycleEffect c.kind s.regs) (cs ++ rest)) rfl hcs
    rw [List.length_cons, run_cons _ s c (cs ++ rest) hin, chainResponses_cons c cs _ s hin]
    cases hchain : c.chain? with
    | none =>
      rw [stateOf_regs, cycleEffect_regs_of_chain?_none c s.regs hc hchain] at hanswers hrun
      rw [List.filterMap_cons_none hchain]
      exact ⟨hanswers, hrun⟩
    | some i =>
      obtain ⟨hkind, -⟩ := (chain?_eq_some_iff c i).1 hchain
      rw [hkind] at hanswers hrun
      rw [List.filterMap_cons_some hchain, hkind]
      exact ⟨congrArg _ hanswers, hrun⟩

/-- The cycles that R118 lets stay: those with a START, DATA, END or reset. -/
def keptCycles (cs : List ClockCycle) : List ClockCycle := cs.filter fun c => c.rst || c.chain?.isSome

/-- A cycle that is taken out wrote no register and had no part in the responses compared. -/
theorem keptCycles_answer_alike (cs : List ClockCycle) (s u : State) (hregs : s.regs = u.regs) (hs : s.inputs = cs)
    (hu : u.inputs = keptCycles cs) :
    chainResponses cs (outputs cs.length s) = chainResponses (keptCycles cs) (outputs (keptCycles cs).length u) ∧
      ∃ t v, run cs.length s = .next t ∧ run (keptCycles cs).length u = .next v ∧ t.regs = v.regs := by
  induction cs generalizing s u with
  | nil => exact ⟨rfl, s, u, rfl, rfl, hregs⟩
  | cons c cs ih =>
    rw [List.length_cons, run_cons _ s c cs hs, chainResponses_cons c cs _ s hs]
    cases hkeep : c.rst || c.chain?.isSome with
    | true =>
      have hkept : keptCycles (c :: cs) = c :: keptCycles cs := List.filter_cons_of_pos hkeep
      rw [hkept] at hu ⊢
      rw [List.length_cons, run_cons _ u c _ hu, chainResponses_cons c _ _ u hu, hregs]
      obtain ⟨hresponses, hrun⟩ :=
        ih (stateOf (cycleEffect c.kind u.regs) cs) (stateOf _ (keptCycles cs)) rfl rfl rfl
      exact ⟨congrArg _ hresponses, hrun⟩
    | false =>
      obtain ⟨hrst, hchain⟩ : c.rst = false ∧ c.chain? = none := by simpa using hkeep
      have hkept : keptCycles (c :: cs) = keptCycles cs := List.filter_cons_of_neg (by simp [hkeep])
      rw [hkept] at hu ⊢
      rw [hchain]
      exact ih _ u ((cycleEffect_regs_of_chain?_none c s.regs hrst hchain).trans hregs) rfl hu

/-! ### A whole call (R123) -/

/-- The registers of an open call with these START fields, at chaining value `p`. -/
def callRegs (m : ChainMode) (d : Direction) (k p : Byte) : Regs where
  active := true
  mode := m
  dir := d
  key := k
  prev := p

/-- Each of the four beats answers one element of its sequence function, and leaves the chaining value that the
function goes on from (R114 to R117). -/
theorem beat_eq_callResult_head (m : ChainMode) (d : Direction) (k p b : Byte) :
    ∃ x p', effect (.data b) (callRegs m d k p) = (callRegs m d k p', ⟨true, rspWord .ok x⟩) ∧
      ∀ bs, callResult m d k p (b :: bs) = x :: callResult m d k p' bs := by
  cases m with
  | independent => cases d <;> exact ⟨cipherRound b k, p, rfl, fun _ => rfl⟩
  | chained =>
    cases d with
    | encrypt => exact ⟨cipherRound (b ^^^ p) k, cipherRound (b ^^^ p) k, rfl, fun _ => rfl⟩
    | decrypt => exact ⟨cipherRound b k ^^^ p, b, rfl, fun _ => rfl⟩

/-- The data byte of a DATA response (R123). -/
def dataAnswer? (a : Instr × RspWord) : Option Byte := (dataByte? a.1).map fun _ => rspData a.2

theorem dataResults_eq (cs : List ClockCycle) (os : List PortOut) :
    dataResults cs os = (chainResponses cs os).filterMap dataAnswer? := rfl

/-- The beats of an open call: all OK, their data is the sequence function, and the call stays open. -/
theorem answers_beats (m : ChainMode) (d : Direction) (k p : Byte) (bs : List Byte) :
    (∀ a ∈ answers (bs.map Instr.data) (callRegs m d k p), rspStatus a.2 = 0#2) ∧
    (answers (bs.map Instr.data) (callRegs m d k p)).filterMap dataAnswer? = callResult m d k p bs ∧
    ∃ p', regsAfter (bs.map Instr.data) (callRegs m d k p) = callRegs m d k p' := by
  induction bs generalizing p with
  | nil => exact ⟨nofun, (List.eq_nil_of_length_eq_zero (length_callResult m d k p [])).symm, p, rfl⟩
  | cons b bs ih =>
    obtain ⟨x, p', heffect, hresult⟩ := beat_eq_callResult_head m d k p b
    obtain ⟨hok, hdata, hregs⟩ := ih p'
    rw [List.map_cons, answers, regsAfter, List.foldl_cons, heffect, hresult]
    refine ⟨List.forall_mem_cons.2 ⟨rspStatus_rspWord .ok x, hok⟩, ?_, hregs⟩
    have hx : dataAnswer? (.data b, rspWord .ok x) = some x := congrArg some (rspData_rspWord .ok x)
    rw [List.filterMap_cons_some hx, hdata]

/-- The commands of a call, from any idle registers. -/
theorem answers_callCommands (m : ChainMode) (d : Direction) (k iv : Byte) (bs : List Byte) (r : Regs)
    (hr : r.active = false) :
    (∀ a ∈ answers (callCommands m d k iv bs) r, rspStatus a.2 = 0#2) ∧
    (answers (callCommands m d k iv bs) r).filterMap dataAnswer? = callResult m d k iv bs ∧
    regsAfter (callCommands m d k iv bs) r = Regs.reset := by
  obtain ⟨hok, hdata, p, hregs⟩ := answers_beats m d k iv bs
  have hstart := effect_start_of_idle m d k iv r hr
  have hend := effect_endCall_of_active (callRegs m d k p) rfl
  have hanswers : answers (callCommands m d k iv bs) r = (.start m d k iv, rspWord .ok 0x00#8) ::
      (answers (bs.map Instr.data) (callRegs m d k iv) ++ [(.endCall, rspWord .ok 0x00#8)]) := by
    rw [callCommands, answers, hstart, answers_append, ← callRegs, hregs, answers, hend]
    rfl
  refine ⟨?_, ?_, ?_⟩
  · rw [hanswers, List.forall_mem_cons, List.forall_mem_append, List.forall_mem_singleton]
    exact ⟨rspStatus_rspWord .ok _, hok, rspStatus_rspWord .ok _⟩
  · rw [hanswers, List.filterMap_cons_none rfl, List.filterMap_append, hdata]
    exact List.append_nil _
  · rw [callCommands, regsAfter, List.foldl_cons, hstart, ← regsAfter, regsAfter_append, ← callRegs, hregs]
    exact congrArg Prod.fst hend

/-! ### The statements of 43_chaining.md -/

/-- Settles O18, from the decoder's answer at opcode 3 and what START does to idle and to open registers. -/
theorem startOpensACallOrGetsProtocol : Obligations.StartOpensACallOrGetsProtocol := by
  refine ⟨fun _ => decode_eq_start, fun m d k iv s h => ?_, fun m d k iv s h => ?_⟩
  · rw [exec_eq_effect, effect_start_of_idle m d k iv s.regs h]
    rfl
  · rw [exec_eq_effect, effect_start_of_active m d k iv s.regs h]
    rfl

/-- Settles O19, from the decoder's answer at opcode 5 and what END does to open and to idle registers. -/
theorem endClearsTheRegistersOrGetsProtocol : Obligations.EndClearsTheRegistersOrGetsProtocol := by
  refine ⟨fun _ => decode_eq_endCall, fun s h => ?_, fun s h => ?_⟩
  · rw [exec_eq_effect, effect_endCall_of_active s.regs h]
    rfl
  · rw [exec_eq_effect, effect_endCall_of_idle s.regs h]
    rfl

/-- Settles O20: the encrypt direction of an independent beat. -/
theorem independentEncryptBeatAnswersTheRound : Obligations.IndependentEncryptBeatAnswersTheRound :=
  fun b s ha hm _ => exec_data_of_independent b s ha hm

/-- Settles O21: the decrypt direction of an independent beat, the same operation. -/
theorem independentDecryptBeatIsTheSameOperation : Obligations.IndependentDecryptBeatIsTheSameOperation :=
  fun b s ha hm _ => exec_data_of_independent b s ha hm

/-- Settles O22: the beat that chained mode and direction encrypt select. -/
theorem chainedEncryptBeatMixesThenRounds : Obligations.ChainedEncryptBeatMixesThenRounds := by
  rintro b _ _ s ha hm hd rfl rfl
  rw [exec_data_of_active b s ha, beat_of_chained_encrypt b s hm hd]
  exact congrArg Host.Outcome.next (respond_ok_byte _ _)

/-- Settles O23: the beat that chained mode and direction decrypt select. -/
theorem chainedDecryptBeatRoundsThenMixes : Obligations.ChainedDecryptBeatRoundsThenMixes := by
  rintro b _ _ s ha hm hd rfl rfl
  rw [exec_data_of_active b s ha, beat_of_chained_decrypt b s hm hd]
  exact congrArg Host.Outcome.next (respond_ok_byte _ _)

/-- Settles O32, one cell of R110's table after the other. -/
theorem controllerMovesOnlyByStartEndAndReset : Obligations.ControllerMovesOnlyByStartEndAndReset := by
  intro s c rest hin
  refine ⟨_, step_cons s c rest hin, ?_⟩
  simp only [stateOf_regs, stateOf_out]
  cases c.kind with
  | reset => rfl
  | noCommand => rfl
  | command i =>
    rw [cycleEffect]
    cases i with
    | sub n =>
      obtain ⟨o, ho⟩ := effect_of_not_chainCommand (.sub n) rfl
      refine ⟨fun hn => ?_, congrArg Prod.fst (ho s.regs)⟩
      rw [effect_sub_of_le n _ hn]
      exact rspStatus_rspWord .ok _
    | perm b => exact ⟨rspStatus_rspWord .ok _, rfl⟩
    | encb b k => exact ⟨rspStatus_rspWord .ok _, rfl⟩
    | start m d k iv =>
      cases ha : s.regs.active with
      | true => rw [effect_start_of_active m d k iv _ ha]; exact ⟨rfl, rfl⟩
      | false => rw [effect_start_of_idle m d k iv _ ha]; exact ⟨rspStatus_rspWord .ok _, rfl⟩
    | data b =>
      cases ha : s.regs.active with
      | true =>
        obtain ⟨d, p, hbeat, hp⟩ := effect_data_of_active b s.regs ha
        rw [hbeat]
        exact ⟨rspStatus_rspWord .ok d, by simp [ha], fun hm => by rw [hp hm]⟩
      | false => rw [effect_data_of_idle b _ ha]; exact ⟨rfl, rfl⟩
    | endCall =>
      cases ha : s.regs.active with
      | true => rw [effect_endCall_of_active _ ha]; exact ⟨rspStatus_rspWord .ok _, rfl⟩
      | false => rw [effect_endCall_of_idle _ ha]; exact ⟨rfl, rfl⟩
    | reserved6 => exact ⟨rfl, rfl⟩
    | reserved7 => exact ⟨rfl, rfl⟩

/-- Settles O46: the lengths, and each function's equation at a position, by induction on the sequence. -/
theorem sequenceFunctionsMeetTheirDefinitions : Obligations.SequenceFunctionsMeetTheirDefinitions := by
  intro bs k iv
  refine ⟨⟨List.length_map _, List.length_map _, length_encCh bs k iv, length_decCh bs k iv⟩, rfl, ?_⟩
  intro i b hb
  exact ⟨getElem?_encInd k hb, fun _ => getElem?_encCh k iv hb, fun _ => getElem?_decCh k iv hb⟩

/-- Settles O47: the stream answers as its commands alone do, and those are a call. -/
theorem aCallComputesItsSequenceFunction : Obligations.ACallComputesItsSequenceFunction := by
  intro m d k iv bs cs rest s hidle hin hrst hcall
  obtain ⟨hanswers, hrun⟩ := stream_answers cs rest s hin hrst
  obtain ⟨hok, hdata, hregs⟩ := answers_callCommands m d k iv bs s.regs hidle
  rw [hcall] at hanswers hrun
  rw [hregs] at hrun
  rw [dataResults_eq, hanswers]
  exact ⟨map_fst_answers _ _, hok, hdata, length_callResult m d k iv bs, hrun⟩

/-- Settles O50, from the stream and its kept cycles run from the same registers. -/
theorem registerFreeCyclesDoNotDisturbTheOthers : Obligations.RegisterFreeCyclesDoNotDisturbTheOthers := by
  rintro s cs _ rfl
  exact keptCycles_answer_alike cs (s.withInputs cs) (s.withInputs (keptCycles cs)) rfl rfl rfl

/-- Settles O51: the responses are those of the commands alone, and START overwrites every register of an idle block. -/
theorem aCallDependsOnNothingBeforeItsStart : Obligations.ACallDependsOnNothingBeforeItsStart := by
  intro s s' cs cs' m d k iv more hs hs' hrst hrst' hcs hcs'
  rw [(stream_answers cs [] (s.withInputs cs) (List.append_nil cs).symm hrst).1,
    (stream_answers cs' [] (s'.withInputs cs') (List.append_nil cs').symm hrst').1, hcs, hcs', answers, answers,
    effect_start_of_idle m d k iv (s.withInputs cs).regs hs,
    effect_start_of_idle m d k iv (s'.withInputs cs').regs hs']

/-- Settles O53: the round twice has no fixed point. -/
theorem independentDecryptRecoversNoByte : Obligations.IndependentDecryptRecoversNoByte := by
  refine fun bs k => ⟨decInd_encInd bs k, fun i b hb h => ?_⟩
  rw [decInd_encInd, List.getElem?_map, hb] at h
  exact cipherRound_cipherRound_ne k b (Option.some.inj h)

/-- Settles O54, by induction on the sequence: at each position the round would have to undo itself. -/
theorem chainedDecryptRecoversNoByte : Obligations.ChainedDecryptRecoversNoByte :=
  fun _ k iv _ _ => getElem?_decCh_encCh_ne k iv

/-- Settles O55: a changed byte reaches the next position as a changed chaining value, which goes on in EncCh and ends
in DecCh. -/
theorem aChangedByteChangesTheChainFromItsPosition : Obligations.AChangedByteChangesTheChainFromItsPosition := by
  constructor
  · intro pre post b b' k iv hb i hi
    exact ⟨getElem?_encCh_eq_iff_of_byte_ne pre k iv hb hi, getElem?_decCh_eq_iff_of_byte_ne pre k iv hb hi⟩
  · intro bs k iv iv' hiv i hi
    exact ⟨getElem?_encCh_ne_of_iv_ne k hiv hi, getElem?_decCh_eq_iff_of_iv_ne k hiv hi⟩

/-- Settles O56: the key reaches the round alone, which does not use it. -/
theorem noSequenceFunctionDependsOnTheKey : Obligations.NoSequenceFunctionDependsOnTheKey :=
  fun bs k1 k2 iv => ⟨rfl, rfl, encCh_key_irrelevant bs k1 k2 iv, decCh_key_irrelevant bs k1 k2 iv⟩

end Sys2Proof.Proofs
end

section
/-! SUPPORT. The status of each command from its operands and the registers, its cause read off the command word, and
60_exceptions.md R140 to R148: the three errors, their priority, and a failed command presented again. -/

namespace Sys2Proof.Proofs

open Sys2Proof Sys2Proof.Machine

/-! ### The opcode of a decoded word (R141) -/

theorem opcode_decode (w : CmdWord) : (decode w).opcode = opField w := by
  obtain h | h | h | h | h | h | h | h := opField_cases w <;> simp [decode, h, Instr.opcode]

theorem opField_eq_of_decode {w : CmdWord} {i : Instr} (h : decode w = i) : opField w = i.opcode :=
  h ▸ (opcode_decode w).symm

theorem decode_eq_reserved6_iff (w : CmdWord) : decode w = .reserved6 ↔ opField w = 6#3 :=
  ⟨opField_eq_of_decode, decode_eq_reserved6⟩

theorem decode_eq_reserved7_iff (w : CmdWord) : decode w = .reserved7 ↔ opField w = 7#3 :=
  ⟨opField_eq_of_decode, decode_eq_reserved7⟩

theorem decode_eq_endCall_iff (w : CmdWord) : decode w = .endCall ↔ opField w = 5#3 :=
  ⟨opField_eq_of_decode, decode_eq_endCall⟩

theorem exists_decode_eq_data_iff (w : CmdWord) : (∃ b, decode w = .data b) ↔ opField w = 4#3 :=
  ⟨fun ⟨_, h⟩ => opField_eq_of_decode h, fun h => ⟨_, decode_eq_data h⟩⟩

theorem exists_decode_eq_start_iff (w : CmdWord) : (∃ m d k iv, decode w = .start m d k iv) ↔ opField w = 3#3 :=
  ⟨fun ⟨_, _, _, _, h⟩ => opField_eq_of_decode h, fun h => ⟨_, _, _, _, decode_eq_start h⟩⟩

theorem leftNibble_dataField (w : CmdWord) : leftNibble (dataField w) = w.extractLsb' 12 4 := by
  ext i hi
  have hdata : 4 + i < 8 := by omega
  simp [leftNibble, dataField, hdata, ← Nat.add_assoc]

/-- The range check of SUB looks at `cmd[15:12]` (R140). -/
theorem sixteen_le_dataField_iff (w : CmdWord) : 16 ≤ (dataField w).toNat ↔ w.extractLsb' 12 4 ≠ 0#4 := by
  rw [← leftNibble_dataField, Ne, leftNibble_eq_zero_iff, Nat.not_le, Nat.lt_iff_add_one_le]

theorem exists_decode_eq_sub_out_of_range_iff (w : CmdWord) :
    (∃ n, decode w = .sub n ∧ 16 ≤ n.toNat) ↔ opField w = 0#3 ∧ w.extractLsb' 12 4 ≠ 0#4 := by
  rw [← sixteen_le_dataField_iff]
  constructor
  · rintro ⟨n, hw, hn⟩
    have hop : opField w = 0#3 := opField_eq_of_decode hw
    obtain rfl : dataField w = n := Instr.sub.inj ((decode_eq_sub hop).symm.trans hw)
    exact ⟨hop, hn⟩
  · rintro ⟨hop, hn⟩
    exact ⟨_, decode_eq_sub hop, hn⟩

/-! ### The status of a command and its causes (R140, R141, R142, R143) -/

/-- The status a command gets in these registers. `effect_cases` ties it to the model. -/
def commandStatus : Instr → Regs → Status
  | .sub n, _ => if n.toNat ≤ 15 then .ok else .invalidInput
  | .perm _, _ => .ok
  | .encb _ _, _ => .ok
  | .start _ _ _ _, r => if r.active then .protocol else .ok
  | .data _, r => if r.active then .ok else .protocol
  | .endCall, r => if r.active then .ok else .protocol
  | .reserved6, _ => .illegalCmd
  | .reserved7, _ => .illegalCmd

/-- The ports in the cycle of a command that gets an error status (R140, R141, R142). -/
def errorResponse (st : Status) : PortOut := { rspValid := true, rsp := rspWord st 0x00#8 }

theorem effect_sub_of_lt (n : Byte) (r : Regs) (h : 15 < n.toNat) :
    effect (.sub n) r = (r, errorResponse .invalidInput) := by
  simp [effect, exec, execSub_of_lt n _ h, errorResponse]

/-- Everything a command can answer: OK with a byte, or its error status with data 0x00 and no register written
(R140 to R142, R146). -/
theorem effect_cases (i : Instr) (r : Regs) :
    (∃ r' d, commandStatus i r = .ok ∧ effect i r = (r', ⟨true, rspWord .ok d⟩)) ∨
    (∃ st, st ≠ .ok ∧ commandStatus i r = st ∧ effect i r = (r, errorResponse st)) := by
  cases i with
  | sub n =>
    by_cases hn : n.toNat ≤ 15
    · exact .inl ⟨_, _, if_pos hn, effect_sub_of_le n r hn⟩
    · exact .inr ⟨.invalidInput, nofun, if_neg hn, effect_sub_of_lt n r (Nat.lt_of_not_le hn)⟩
  | perm b => exact .inl ⟨_, _, rfl, rfl⟩
  | encb b k => exact .inl ⟨_, _, rfl, rfl⟩
  | start m d k iv =>
    cases ha : r.active with
    | true => exact .inr ⟨.protocol, nofun, if_pos ha, effect_start_of_active m d k iv r ha⟩
    | false => exact .inl ⟨_, _, if_neg (by simp [ha]), effect_start_of_idle m d k iv r ha⟩
  | data b =>
    cases ha : r.active with
    | true =>
      obtain ⟨d, p, hbeat, -⟩ := effect_data_of_active b r ha
      exact .inl ⟨_, d, if_pos ha, hbeat⟩
    | false => exact .inr ⟨.protocol, nofun, if_neg (by simp [ha]), effect_data_of_idle b r ha⟩
  | endCall =>
    cases ha : r.active with
    | true => exact .inl ⟨_, _, if_pos ha, effect_endCall_of_active r ha⟩
    | false => exact .inr ⟨.protocol, nofun, if_neg (by simp [ha]), effect_endCall_of_idle r ha⟩
  | reserved6 => exact .inr ⟨.illegalCmd, nofun, rfl, rfl⟩
  | reserved7 => exact .inr ⟨.illegalCmd, nofun, rfl, rfl⟩

theorem rspStatus_effect (i : Instr) (r : Regs) : rspStatus (effect i r).2.rsp = (commandStatus i r).code := by
  obtain ⟨r', d, hst, heffect⟩ | ⟨st, -, hst, heffect⟩ := effect_cases i r
  · rw [hst, heffect]
    exact rspStatus_rspWord .ok d
  · rw [hst, heffect]
    exact rspStatus_rspWord st 0x00#8

/-- A command that does not get OK has no effect but its response (R146). -/
theorem effect_of_error {i : Instr} {r : Regs} {st : Status} (h : commandStatus i r = st) (hst : st ≠ .ok) :
    effect i r = (r, errorResponse st) := by
  obtain ⟨-, -, hok, -⟩ | ⟨st', -, hst', heffect⟩ := effect_cases i r
  · exact absurd (h.symm.trans hok) hst
  · rwa [← h, hst']

theorem code_injective : Function.Injective Status.code := by
  intro a b
  cases a <;> cases b <;> decide

/-- The response word of an error is given with that error's status alone. -/
theorem effect_rsp_eq_error_iff (i : Instr) (r : Regs) {st : Status} (hst : st ≠ .ok) :
    (effect i r).2.rsp = rspWord st 0x00#8 ↔ commandStatus i r = st := by
  constructor
  · intro h
    exact code_injective (by rw [← rspStatus_effect, h, rspStatus_rspWord])
  · intro h
    rw [effect_of_error h hst]
    rfl

theorem commandStatus_eq_invalidInput_iff (i : Instr) (r : Regs) :
    commandStatus i r = .invalidInput ↔ ∃ n, i = .sub n ∧ 16 ≤ n.toNat := by
  cases i with
  | sub n => simp [commandStatus, Nat.lt_iff_add_one_le]
  | _ => simp [commandStatus, ite_eq_iff]

theorem commandStatus_eq_illegalCmd_iff (i : Instr) (r : Regs) :
    commandStatus i r = .illegalCmd ↔ i = .reserved6 ∨ i = .reserved7 := by
  cases i <;> simp [commandStatus, ite_eq_iff]

theorem commandStatus_eq_protocol_iff (i : Instr) (r : Regs) :
    commandStatus i r = .protocol ↔
      ((∃ m d k iv, i = .start m d k iv) ∧ r.active = true) ∨
        (((∃ b, i = .data b) ∨ i = .endCall) ∧ r.active = false) := by
  cases i <;> simp [commandStatus, ite_eq_iff]

/-! ### What each check of R145 looks at in the command word -/

theorem commandStatus_decode_eq_illegalCmd_iff (w : CmdWord) (r : Regs) :
    commandStatus (decode w) r = .illegalCmd ↔ opField w = 6#3 ∨ opField w = 7#3 := by
  rw [commandStatus_eq_illegalCmd_iff, decode_eq_reserved6_iff, decode_eq_reserved7_iff]

theorem commandStatus_decode_eq_protocol_iff (w : CmdWord) (r : Regs) :
    commandStatus (decode w) r = .protocol ↔
      (opField w = 3#3 ∧ r.active = true) ∨ ((opField w = 4#3 ∨ opField w = 5#3) ∧ r.active = false) := by
  rw [commandStatus_eq_protocol_iff, exists_decode_eq_start_iff, exists_decode_eq_data_iff, decode_eq_endCall_iff]

theorem commandStatus_decode_eq_invalidInput_iff (w : CmdWord) (r : Regs) :
    commandStatus (decode w) r = .invalidInput ↔ opField w = 0#3 ∧ w.extractLsb' 12 4 ≠ 0#4 := by
  rw [commandStatus_eq_invalidInput_iff, exists_decode_eq_sub_out_of_range_iff]

/-! ### The statements of 60_exceptions.md -/

/-- Settles O25, from the opcode of a decoded word and the one response of the two reserved commands. -/
theorem reservedOpcodesGetIllegalCmd : Obligations.ReservedOpcodesGetIllegalCmd :=
  ⟨fun w => ⟨decode_eq_reserved6_iff w, decode_eq_reserved7_iff w⟩, fun _ => ⟨rfl, rfl⟩⟩

/-- Settles O26: the response word tells the status, and each status has its causes. -/
theorem eachErrorStatusHasExactlyItsCauses : Obligations.EachErrorStatusHasExactlyItsCauses := by
  intro i s
  have hword {st : Status} (hst : st ≠ .ok) := effect_rsp_eq_error_iff i s.regs hst
  refine ⟨_, exec_eq_effect i s, effect_rspValid i s.regs,
    (hword (st := .invalidInput) nofun).trans (commandStatus_eq_invalidInput_iff i s.regs),
    (hword (st := .illegalCmd) nofun).trans (commandStatus_eq_illegalCmd_iff i s.regs),
    (hword (st := .protocol) nofun).trans (commandStatus_eq_protocol_iff i s.regs), ?_⟩
  rw [stateOf_out, stateOf_regs]
  cases hst : commandStatus i s.regs with
  | ok => exact .inl ((rspStatus_effect i s.regs).trans (congrArg Status.code hst))
  | invalidInput => rw [effect_of_error hst nofun]; exact .inr ⟨.inl rfl, rfl⟩
  | illegalCmd => rw [effect_of_error hst nofun]; exact .inr ⟨.inr (.inl rfl), rfl⟩
  | protocol => rw [effect_of_error hst nofun]; exact .inr ⟨.inr (.inr rfl), rfl⟩

/-- Settles O27: of a command's checks each one is the cause of its status, and with none of them the status is OK. -/
theorem theFirstApplicableCheckDecidesTheCycle : Obligations.TheFirstApplicableCheckDecidesTheCycle := by
  intro s c rest hin
  refine ⟨_, step_cons s c rest hin, rfl, ?_⟩
  rw [stateOf_regs, stateOf_out]
  split_ifs with hrst hvalid hillegal hprotocol hrange
  · rw [kind_of_rst c hrst]
    exact ⟨rfl, rfl⟩
  · rw [kind_of_no_command c (Bool.eq_false_of_not_eq_true hrst) hvalid]
    exact ⟨rfl, rfl⟩
  all_goals
    rw [kind_of_command c (Bool.eq_false_of_not_eq_true hrst) (Bool.eq_true_of_not_eq_false hvalid), cycleEffect]
  · rw [effect_of_error ((commandStatus_decode_eq_illegalCmd_iff c.cmd s.regs).2 hillegal) nofun]
    exact ⟨rfl, rfl⟩
  · rw [effect_of_error ((commandStatus_decode_eq_protocol_iff c.cmd s.regs).2 hprotocol) nofun]
    exact ⟨rfl, rfl⟩
  · rw [effect_of_error ((commandStatus_decode_eq_invalidInput_iff c.cmd s.regs).2 hrange) nofun]
    exact ⟨rfl, rfl⟩
  · have hok : commandStatus (decode c.cmd) s.regs = .ok := by
      cases hst : commandStatus (decode c.cmd) s.regs with
      | ok => rfl
      | illegalCmd => exact absurd ((commandStatus_decode_eq_illegalCmd_iff c.cmd s.regs).1 hst) hillegal
      | protocol => exact absurd ((commandStatus_decode_eq_protocol_iff c.cmd s.regs).1 hst) hprotocol
      | invalidInput => exact absurd ((commandStatus_decode_eq_invalidInput_iff c.cmd s.regs).1 hst) hrange
    exact ⟨exec_eq_effect _ (s.withInputs rest), effect_rspValid _ _,
      (rspStatus_effect _ _).trans (congrArg Status.code hok)⟩

/-- Settles O29: the failed command writes no register, so each presentation of it is answered from the same ones. -/
theorem retryingAFailedCommandNeverChangesItsOutcome : Obligations.RetryingAFailedCommandNeverChangesItsOutcome := by
  intro s t w n rest hin hstep hfail
  have hfirst : step s = .next (stateOf (effect (decode w) s.regs) (List.replicate n ⟨false, true, w⟩ ++ rest)) :=
    step_cons s _ _ hin
  obtain rfl : stateOf _ _ = t := Host.Outcome.next.inj (hfirst.symm.trans hstep)
  have herror : commandStatus (decode w) s.regs ≠ .ok := fun hok =>
    hfail ((rspStatus_effect _ _).trans (congrArg Status.code hok))
  have hkeep : ∀ c ∈ List.replicate (n + 1) (ClockCycle.mk false true w), (cycleEffect c.kind s.regs).1 = s.regs := by
    intro c hc
    rw [List.eq_of_mem_replicate hc]
    exact congrArg Prod.fst (effect_of_error rfl herror)
  have houtputs := outputs_of_regs_kept _ 0 s rest hkeep hin
  have hrun := run_of_regs_kept _ s rest hkeep hin
  rw [List.length_replicate] at houtputs hrun
  refine ⟨houtputs.trans ?_, hrun⟩
  rw [List.map_replicate]
  exact List.append_nil _

end Sys2Proof.Proofs
end

section
/-! SUPPORT. A run cut in two at a cycle, what reset cycles and what DATA commands of an idle block leave, and
70_reset_and_hazards.md R160: reset overrides a command, and the beats of an aborted call find the block idle. -/

namespace Sys2Proof.Proofs

open Sys2Proof Sys2Proof.Machine

/-! ### A run cut in two -/

theorem run_add_of_run {k : Nat} {s t : State} (n : Nat) (h : run k s = .next t) : run (k + n) s = run n t := by
  induction k generalizing s with
  | zero => rw [Nat.zero_add, Host.Outcome.next.inj h]
  | succ k ih =>
    rw [run_succ k (step_eq_cycleEffect s)] at h
    rw [Nat.succ_add, run_succ _ (step_eq_cycleEffect s), ih h]

theorem outputs_add_of_run {k : Nat} {s t : State} (n : Nat) (h : run k s = .next t) :
    outputs (k + n) s = outputs k s ++ outputs n t := by
  induction k generalizing s with
  | zero => rw [Nat.zero_add, Host.Outcome.next.inj h, outputs, List.nil_append]
  | succ k ih =>
    rw [run_succ k (step_eq_cycleEffect s)] at h
    simp only [Nat.succ_add, outputs, step_eq_cycleEffect, ih h, List.cons_append]

/-! ### Reset cycles (R160) -/

theorem outputs_of_rst (rs : List ClockCycle) (s : State) (rest : List ClockCycle) (hrst : ∀ c ∈ rs, c.rst = true)
    (hin : s.inputs = rs ++ rest) : outputs rs.length s = List.replicate rs.length PortOut.none := by
  induction rs generalizing s with
  | nil => rfl
  | cons c rs ih =>
    obtain ⟨hc, hrs⟩ := List.forall_mem_cons.1 hrst
    rw [List.length_cons, outputs_cons _ s c (rs ++ rest) hin, kind_of_rst c hc, List.replicate_succ]
    exact congrArg _ (ih (stateOf _ _) hrs rfl)

/-- The last of one or more reset cycles decides the state, whatever was open before them. -/
theorem run_of_rst (rs : List ClockCycle) (s : State) (rest : List ClockCycle) (hne : rs ≠ [])
    (hrst : ∀ c ∈ rs, c.rst = true) (hin : s.inputs = rs ++ rest) :
    run rs.length s = .next (stateOf (Regs.reset, PortOut.none) rest) := by
  induction rs generalizing s with
  | nil => exact absurd rfl hne
  | cons c rs ih =>
    obtain ⟨hc, hrs⟩ := List.forall_mem_cons.1 hrst
    rw [List.length_cons, run_succ _ (step_of_rst s c (rs ++ rest) hin hc)]
    cases rs with
    | nil => rfl
    | cons c' rs => exact ih (stateOf _ _) (List.cons_ne_nil c' rs) hrs rfl

/-! ### DATA commands of an idle block (R113) -/

theorem cycleEffect_present_data_of_idle {w : CmdWord} (hw : opField w = 4#3) (r : Regs) (h : r.active = false) :
    cycleEffect (ClockCycle.present w).kind r = (r, protocolResponse) := by
  rw [kind_of_command (ClockCycle.present w) rfl rfl]
  exact (congrArg (effect · r) (decode_eq_data hw)).trans (effect_data_of_idle _ r h)

/-- Each of them gets PROTOCOL, writes no register, and so leaves the block idle for the next one. -/
theorem present_data_of_idle (ws : List CmdWord) (s : State) (rest : List ClockCycle)
    (hws : ∀ w ∈ ws, opField w = 4#3) (hidle : s.regs.active = false)
    (hin : s.inputs = ws.map ClockCycle.present ++ rest) :
    outputs ws.length s = List.replicate ws.length protocolResponse ∧
      ∃ t, run ws.length s = .next t ∧ t.regs = s.regs ∧ t.inputs = rest := by
  have heffect : ∀ c ∈ ws.map ClockCycle.present, cycleEffect c.kind s.regs = (s.regs, protocolResponse) :=
    List.forall_mem_map.2 fun w hw => cycleEffect_present_data_of_idle (hws w hw) s.regs hidle
  have hkeep : ∀ c ∈ ws.map ClockCycle.present, (cycleEffect c.kind s.regs).1 = s.regs :=
    fun c hc => congrArg Prod.fst (heffect c hc)
  have hprotocol : (ws.map ClockCycle.present).map (fun c => (cycleEffect c.kind s.regs).2) =
      List.replicate (ws.map ClockCycle.present).length protocolResponse :=
    List.map_eq_replicate_iff.2 fun c hc => congrArg Prod.snd (heffect c hc)
  have houtputs := outputs_of_regs_kept _ 0 s rest hkeep hin
  have hrun := run_of_regs_kept _ s rest hkeep hin
  rw [hprotocol, outputs, List.append_nil] at houtputs
  rw [List.length_map] at houtputs hrun
  exact ⟨houtputs, hrun⟩

/-! ### The statements of 70_reset_and_hazards.md -/

/-- Settles O37: the run is cut after its reset cycles, which leave the reset registers, and those are idle. -/
theorem resetAbortsACallAndIgnoresCommands : Obligations.ResetAbortsACallAndIgnoresCommands := by
  intro s rs bs rest hne hrst hdata hin
  have hreset := run_of_rst rs s (bs.map ClockCycle.present ++ rest) hne hrst hin
  obtain ⟨hbeats, u, hrun, hregs, hinputs⟩ :=
    present_data_of_idle bs (stateOf (Regs.reset, PortOut.none) (bs.map ClockCycle.present ++ rest)) rest hdata rfl rfl
  refine ⟨?_, ⟨_, hreset, rfl, rfl⟩, u, (run_add_of_run bs.length hreset).trans hrun, hregs, hinputs⟩
  rw [outputs_add_of_run bs.length hreset, outputs_of_rst rs s _ hrst hin, hbeats]
  rfl

end Sys2Proof.Proofs
end

section
/-! SUPPORT. The command word under a mask of fields and as a number, and 30_encoding.md R61 to R71: the decoder undoes
the encoder, the words of each command, and the assembler. -/

namespace Sys2Proof.Proofs

open Sys2Proof Sys2Proof.Machine

/-! ### The bits that a command reads (R63, R69) -/

/-- A mask that holds a whole field keeps it. -/
theorem extractLsb'_and_of_allOnes {mask : CmdWord} {i n : Nat} (w : CmdWord)
    (h : mask.extractLsb' i n = BitVec.allOnes n) : (w &&& mask).extractLsb' i n = w.extractLsb' i n := by
  rw [BitVec.extractLsb'_and, h, BitVec.and_allOnes]

/-- A mask laid out in the one format masks each field by its own part. -/
theorem and_commandWord (w : CmdWord) (iv key data : Byte) (dir mode : BitVec 1) (op : BitVec 3) :
    w &&& commandWord iv key data dir mode op =
      commandWord (ivField w &&& iv) (keyField w &&& key) (dataField w &&& data) (dirField w &&& dir)
        (modeField w &&& mode) (opField w &&& op) := by
  refine BitVec.eq_of_getLsbD_eq fun j hj => ?_
  have hbit (i n : Nat) (hi : i ≤ j) (hn : j - i < n) : (w.extractLsb' i n).getLsbD (j - i) = w.getLsbD j := by
    simp [hn, Nat.add_sub_cancel' hi]
  simp only [BitVec.getLsbD_and, getLsbD_commandWord]
  split_ifs with h3 h4 h5 h8 h16 h24
  · rw [opField, ← hbit 0 3 (by omega) h3]; rfl
  · rw [modeField, hbit 3 1 (by omega) (by omega)]
  · rw [dirField, hbit 4 1 (by omega) (by omega)]
  · exact Bool.and_false _
  · rw [dataField, hbit 8 8 (by omega) (by omega)]
  · rw [keyField, hbit 16 8 (by omega) (by omega)]
  · rw [ivField, hbit 24 8 (by omega) (by omega)]

theorem and_dataMask (w : CmdWord) :
    w &&& 0x0000FF07#32 = commandWord 0 0 (dataField w) 0 0 (opField w) := by
  rw [(by decide : 0x0000FF07#32 = commandWord 0 0 (.allOnes 8) 0 0 (.allOnes 3)), and_commandWord]
  simp only [BitVec.and_allOnes, BitVec.and_zero, BitVec.ofNat_eq_ofNat]

theorem and_dataKeyMask (w : CmdWord) :
    w &&& 0x00FFFF07#32 = commandWord 0 (keyField w) (dataField w) 0 0 (opField w) := by
  rw [(by decide : 0x00FFFF07#32 = commandWord 0 (.allOnes 8) (.allOnes 8) 0 0 (.allOnes 3)), and_commandWord]
  simp only [BitVec.and_allOnes, BitVec.and_zero, BitVec.ofNat_eq_ofNat]

theorem and_startMask (w : CmdWord) :
    w &&& 0xFFFF001F#32 = commandWord (ivField w) (keyField w) 0 (dirField w) (modeField w) (opField w) := by
  rw [(by decide : 0xFFFF001F#32 =
    commandWord (.allOnes 8) (.allOnes 8) 0 (.allOnes 1) (.allOnes 1) (.allOnes 3)), and_commandWord]
  simp only [BitVec.and_allOnes, BitVec.and_zero, BitVec.ofNat_eq_ofNat]

theorem and_opMask (w : CmdWord) : w &&& 0x00000007#32 = commandWord 0 0 0 0 0 (opField w) := by
  rw [(by decide : 0x00000007#32 = commandWord 0 0 0 0 0 (.allOnes 3)), and_commandWord]
  simp only [BitVec.and_allOnes, BitVec.and_zero, BitVec.ofNat_eq_ofNat]

@[simp] theorem chainMode_toBit_ofBit (b : BitVec 1) : (ChainMode.ofBit b).toBit = b := by
  revert b
  decide

@[simp] theorem direction_toBit_ofBit (b : BitVec 1) : (Direction.ofBit b).toBit = b := by
  revert b
  decide

/-- Masked to the bits that its command reads, a word is the encoding of that command. -/
theorem and_readMask_decode (w : CmdWord) : w &&& (decode w).readMask = encode (decode w) := by
  obtain h | h | h | h | h | h | h | h := opField_cases w
  · rw [decode_eq_sub h, Instr.readMask, and_dataMask, h, encode]
  · rw [decode_eq_perm h, Instr.readMask, and_dataMask, h, encode]
  · rw [decode_eq_encb h, Instr.readMask, and_dataKeyMask, h, encode]
  · rw [decode_eq_start h, Instr.readMask, and_startMask, h, encode, ← ofBit_modeField, ← ofBit_dirField,
      chainMode_toBit_ofBit, direction_toBit_ofBit]
  · rw [decode_eq_data h, Instr.readMask, and_dataMask, h, encode]
  · rw [decode_eq_endCall h, Instr.readMask, and_opMask, h, encode]
  · rw [decode_eq_reserved6 h, Instr.readMask, and_opMask, h, encode]
  · rw [decode_eq_reserved7 h, Instr.readMask, and_opMask, h, encode]

/-- The opcode alone decides which bits are read (R62). -/
theorem readMask_eq_of_opcode (i : Instr) : i.readMask = (decode (i.opcode.setWidth 32)).readMask := by
  cases i <;> simp [Instr.readMask, Instr.opcode, decode, opField]

/-- Every command reads its opcode. -/
theorem opField_readMask (i : Instr) : opField i.readMask = .allOnes 3 := by
  cases i <;> (rw [Instr.readMask]; decide)

theorem opField_and_readMask (w : CmdWord) (i : Instr) : opField (w &&& i.readMask) = opField w := by
  rw [opField, extractLsb'_and_of_allOnes w (opField_readMask i), ← opField]

theorem decode_eq_iff_and_readMask (w : CmdWord) (i : Instr) : decode w = i ↔ w &&& i.readMask = encode i := by
  constructor
  · rintro rfl
    exact and_readMask_decode w
  · intro h
    have hopcode : (decode w).opcode = i.opcode := by
      rw [opcode_decode, ← opField_and_readMask w i, h, ← opcode_decode, decode_encode]
    have hmask : (decode w).readMask = i.readMask := by
      rw [readMask_eq_of_opcode, hopcode, ← readMask_eq_of_opcode]
    calc decode w
      _ = decode (encode (decode w)) := (decode_encode _).symm
      _ = decode (encode i) := by rw [← and_readMask_decode, hmask, h]
      _ = i := decode_encode i

/-! ### The assembler's numbers (R71) -/

/-- Seven fields laid side by side, as a number. -/
theorem toNat_append_seven {a b c d e f g : Nat} (t : BitVec a) (u : BitVec b) (v : BitVec c) (w : BitVec d)
    (x : BitVec e) (y : BitVec f) (z : BitVec g) :
    (t ++ u ++ v ++ w ++ x ++ y ++ z).toNat =
      t.toNat <<< (b + (c + (d + (e + (f + g))))) ||| u.toNat <<< (c + (d + (e + (f + g)))) |||
        v.toNat <<< (d + (e + (f + g))) ||| w.toNat <<< (e + (f + g)) ||| x.toNat <<< (f + g) |||
        y.toNat <<< g ||| z.toNat := by
  simp only [BitVec.toNat_append, Nat.shiftLeft_or_distrib, ← Nat.shiftLeft_add, Nat.add_assoc]

/-- A command word as a number: its fields, each shifted to its place. -/
theorem commandWord_eq_ofNat (iv key data : Byte) (dir mode : BitVec 1) (op : BitVec 3) :
    commandWord iv key data dir mode op = BitVec.ofNat 32 (iv.toNat <<< 24 ||| key.toNat <<< 16 |||
      data.toNat <<< 8 ||| dir.toNat <<< 4 ||| mode.toNat <<< 3 ||| op.toNat) := by
  have htoNat : (commandWord iv key data dir mode op).toNat = iv.toNat <<< 24 ||| key.toNat <<< 16 |||
      data.toNat <<< 8 ||| dir.toNat <<< 4 ||| mode.toNat <<< 3 ||| op.toNat := by
    exact (toNat_append_seven iv key data 0#3 dir mode op).trans (by simp)
  rw [← htoNat, BitVec.ofNat_toNat, BitVec.setWidth_eq]

theorem toNat_ofNat_of_isByteValue {n : Nat} (h : isByteValue n = true) : (BitVec.ofNat 8 n).toNat = n := by
  have hlt : n < 2 ^ 8 := by simpa [isByteValue] using h
  rw [BitVec.toNat_ofNat, Nat.mod_eq_of_lt hlt]

theorem toNat_ofNat_of_isWordValue {w : Nat} (h : isWordValue w = true) : (BitVec.ofNat 32 w).toNat = w := by
  have hlt : w < 2 ^ 32 := by simpa [isWordValue] using h
  rw [BitVec.toNat_ofNat, Nat.mod_eq_of_lt hlt]

theorem asmWord_sub {n : Nat} (h : isByteValue n = true) :
    asmWord (.sub n) = some (encode (.sub (BitVec.ofNat 8 n))) := by
  rw [encode, commandWord_eq_ofNat, toNat_ofNat_of_isByteValue h]
  simp [asmWord]

theorem asmWord_perm {b : Nat} (h : isByteValue b = true) :
    asmWord (.perm b) = some (encode (.perm (BitVec.ofNat 8 b))) := by
  rw [encode, commandWord_eq_ofNat, toNat_ofNat_of_isByteValue h]
  simp [asmWord]

theorem asmWord_encb {b k : Nat} (hb : isByteValue b = true) (hk : isByteValue k = true) :
    asmWord (.encb b k) = some (encode (.encb (BitVec.ofNat 8 b) (BitVec.ofNat 8 k))) := by
  rw [encode, commandWord_eq_ofNat, toNat_ofNat_of_isByteValue hb, toNat_ofNat_of_isByteValue hk]
  simp [asmWord]

theorem asmWord_start (m : ChainMode) (d : Direction) {k iv : Nat} (hk : isByteValue k = true)
    (hiv : isByteValue iv = true) :
    asmWord (.start m d k iv) = some (encode (.start m d (BitVec.ofNat 8 k) (BitVec.ofNat 8 iv))) := by
  rw [encode, commandWord_eq_ofNat, toNat_ofNat_of_isByteValue hk, toNat_ofNat_of_isByteValue hiv]
  simp [asmWord]

theorem asmWord_data {b : Nat} (h : isByteValue b = true) :
    asmWord (.data b) = some (encode (.data (BitVec.ofNat 8 b))) := by
  rw [encode, commandWord_eq_ofNat, toNat_ofNat_of_isByteValue h]
  simp [asmWord]

theorem asmCycle_of_asmWord {l : AsmLine} {w : CmdWord} (h : asmWord l = some w) :
    asmCycle l = ClockCycle.present w := by
  rw [asmCycle, h]

/-! ### The statements of 30_encoding.md -/

/-- Settles O2: each field is read back from its place in the one format. -/
theorem decodingAnEncodedCommandGivesItBack : Obligations.DecodingAnEncodedCommandGivesItBack := decode_encode

/-- Settles O3: a masked word is the encoding of what it decodes to, and the mask keeps the opcode, which decides the
mask. -/
theorem aWordMeansACommandExactlyOnItsReadBits : Obligations.AWordMeansACommandExactlyOnItsReadBits :=
  decode_eq_iff_and_readMask

/-- Settles O4, word by word. -/
theorem writtenOutWordsDecodeToTheirCommands : Obligations.WrittenOutWordsDecodeToTheirCommands := by
  unfold Obligations.WrittenOutWordsDecodeToTheirCommands
  decide

/-- Settles O6: a command word is the number its line shifts together. -/
theorem assemblerLinesAreTheEncodingsOfTheirCommands : Obligations.AssemblerLinesAreTheEncodingsOfTheirCommands := by
  refine ⟨fun _ => asmWord_sub, fun _ => asmWord_perm, fun b k h => ?_, fun m d k iv h => ?_, fun _ => asmWord_data,
    by decide, fun w h => ?_, fun _ _ => asmCycle_of_asmWord, by decide, by decide⟩
  · obtain ⟨hb, hk⟩ := Bool.and_eq_true_iff.1 h
    exact asmWord_encb hb hk
  · obtain ⟨hk, hiv⟩ := Bool.and_eq_true_iff.1 h
    exact asmWord_start m d hk hiv
  · exact ⟨_, rfl, toNat_ofNat_of_isWordValue h⟩

end Sys2Proof.Proofs
end

section
/-! SUPPORT. What a cycle answers, with or without a command in it, and how many responses a run has: 10_state.md R20,
R21 and R34, 30_encoding.md R65 and R66, 60_exceptions.md R147 and 70_reset_and_hazards.md R168. -/

namespace Sys2Proof.Proofs

open Sys2Proof Sys2Proof.Machine Sys2Proof.Safety

theorem eq_stateOf_of_exec {i : Instr} {s t : State} (h : exec i s = .next t) :
    t = stateOf (effect i s.regs) s.inputs :=
  Host.Outcome.next.inj (h.symm.trans (exec_eq_effect i s))

theorem eq_stateOf_of_step {s t : State} (h : step s = .next t) :
    t = stateOf (cycleEffect (fetch s).1 s.regs) s.inputs.tail :=
  Host.Outcome.next.inj (h.symm.trans (step_eq_cycleEffect s))

/-! ### The ports after a cycle (R66, R67) -/

theorem outputLegal_none : OutputLegal PortOut.none := ⟨fun _ => rfl, fun _ => rfl⟩

theorem outputLegal_effect (i : Instr) (r : Regs) : OutputLegal (effect i r).2 := by
  obtain ⟨r', d, -, heffect⟩ | ⟨st, -, -, heffect⟩ := effect_cases i r
  · rw [heffect]
    exact ⟨nofun, fun herror => absurd (rspStatus_rspWord .ok d) herror⟩
  · rw [heffect]
    exact ⟨nofun, fun _ => rspData_rspWord st 0x00#8⟩

theorem outputLegal_cycleEffect (k : CycleKind) (r : Regs) : OutputLegal (cycleEffect k r).2 := by
  cases k with
  | reset => exact outputLegal_none
  | noCommand => exact outputLegal_none
  | command i => exact outputLegal_effect i r

/-- A cycle has a response exactly when it presents a command outside reset. -/
theorem rspValid_cycleEffect (c : ClockCycle) (r : Regs) :
    (cycleEffect c.kind r).2.rspValid = (!c.rst && c.cmdValid) := by
  cases hrst : c.rst with
  | true => rw [kind_of_rst c hrst]; rfl
  | false =>
    cases hvalid : c.cmdValid with
    | false => rw [kind_of_no_command c hrst hvalid]; rfl
    | true =>
      rw [kind_of_command c hrst hvalid]
      exact effect_rspValid (decode c.cmd) r

/-- SUB answers a zero-extended nibble, or no data with an error (R83). -/
theorem leftNibble_rspData_effect_sub (n : Byte) (r : Regs) : leftNibble (rspData (effect (.sub n) r).2.rsp) = 0#4 := by
  rw [leftNibble_eq_zero_iff]
  by_cases hn : n.toNat ≤ 15
  · rw [effect_sub_of_le n r hn, rspData_rspWord, BitVec.toNat_setWidth_of_le (by decide)]
    exact Nat.le_of_lt_succ (BitVec.isLt _)
  · rw [effect_sub_of_lt n r (Nat.lt_of_not_le hn), errorResponse, rspData_rspWord]
    exact Nat.zero_le 15

theorem rspData_effect_start (m : ChainMode) (d : Direction) (k iv : Byte) (r : Regs) :
    rspData (effect (.start m d k iv) r).2.rsp = 0x00#8 := by
  cases ha : r.active with
  | true => rw [effect_start_of_active m d k iv r ha]; exact rspData_rspWord .protocol _
  | false => rw [effect_start_of_idle m d k iv r ha]; exact rspData_rspWord .ok _

theorem rspData_effect_endCall (r : Regs) : rspData (effect .endCall r).2.rsp = 0x00#8 := by
  cases ha : r.active with
  | true => rw [effect_endCall_of_active r ha]; exact rspData_rspWord .ok _
  | false => rw [effect_endCall_of_idle r ha]; exact rspData_rspWord .protocol _

theorem leftNibble_rspData (w : RspWord) : leftNibble (rspData w) = w.extractLsb' 4 4 :=
  BitVec.extractLsb'_extractLsb'_of_le (by decide)

/-! ### Runs (R168) -/

theorem isSome_response? (o : PortOut) : o.response?.isSome = o.rspValid := by
  cases h : o.rspValid <;> simp [PortOut.response?, h]

theorem length_responses (k : Nat) (s : State) : (responses k s).length = (outputs k s).countP (·.rspValid) := by
  rw [responses, List.length_filterMap_eq_countP]
  exact List.countP_congr fun o _ => by rw [isSome_response?]

theorem run_drops_cycles (k : Nat) (s : State) : ∃ t, run k s = .next t ∧ t.inputs = s.inputs.drop k := by
  induction k generalizing s with
  | zero => exact ⟨s, rfl, rfl⟩
  | succ k ih =>
    rw [run_succ k (step_eq_cycleEffect s), ← List.drop_tail]
    exact ih _

theorem length_outputs (k : Nat) (s : State) : (outputs k s).length = k := by
  induction k generalizing s with
  | zero => rfl
  | succ k ih =>
    rw [outputs, step_eq_cycleEffect s]
    exact congrArg Nat.succ (ih _)

/-- Past the listed cycles there is no response, and each listed cycle has one if it presents a command. -/
theorem countP_rspValid_outputs (k : Nat) (s : State) :
    (outputs k s).countP (·.rspValid) = (s.inputs.take k).countP (fun c => !c.rst && c.cmdValid) := by
  induction k generalizing s with
  | zero => rfl
  | succ k ih =>
    cases hin : s.inputs with
    | nil =>
      rw [outputs_nil _ s hin, List.countP_replicate]
      rfl
    | cons c rest =>
      rw [outputs_cons k s c rest hin, List.take_succ_cons, List.countP_cons, List.countP_cons, ih,
        rspValid_cycleEffect, stateOf_inputs]

/-! ### The statements about a command and a step -/

/-- Settles O24: an idle block answers PROTOCOL, and everything a beat can do is one OK byte and PREV. -/
theorem dataNeedsAnOpenCallAndKeepsItsParameters : Obligations.DataNeedsAnOpenCallAndKeepsItsParameters := by
  refine ⟨fun _ => decode_eq_data, fun b s hidle => ?_, fun b s hopen => ?_⟩
  · rw [exec_eq_effect, effect_data_of_idle b s.regs hidle]
    rfl
  · obtain ⟨d, p, hbeat, -⟩ := beat_cases b s
    exact ⟨p, d, by rw [exec_data_of_active b s hopen, hbeat, respond_ok_byte]; rfl⟩

/-- Settles O28: a command that does not get OK writes no register, and its response is read by nothing later. -/
theorem aFailedCommandLeavesNoTrace : Obligations.AFailedCommandLeavesNoTrace := by
  intro s t c rest hin hrst hvalid hstep hfail
  obtain rfl : stateOf _ _ = t := Host.Outcome.next.inj ((step_cons s c rest hin).symm.trans hstep)
  rw [kind_of_command c hrst hvalid, cycleEffect] at hfail ⊢
  have hkept : (effect (decode c.cmd) s.regs).1 = s.regs := by
    refine congrArg Prod.fst (effect_of_error rfl fun hok => hfail ?_)
    exact (rspStatus_effect _ _).trans (congrArg Status.code hok)
  exact ⟨_, step_cons (s.withInputs (ClockCycle.idle :: rest)) _ rest rfl, hkept, rfl,
    fun n => outputs_congr n _ _ hkept rfl⟩

/-- Settles O30, from everything a command can do to the registers. -/
theorem onlyTheListedCommandsWriteARegister : Obligations.OnlyTheListedCommandsWriteARegister := by
  intro i s t hexec
  rw [eq_stateOf_of_exec hexec]
  refine ⟨rfl, fun hstart hend => ?_⟩
  rw [stateOf_regs]
  obtain hsame | ⟨m, d, k, iv, rfl, -⟩ | ⟨b, p, rfl, -, hprev, hbeat⟩ | ⟨rfl, -⟩ := effect_regs_cases i s.regs
  · rw [hsame]
    exact ⟨rfl, rfl, rfl, rfl, fun _ => rfl⟩
  · exact absurd rfl (hstart m d k iv)
  · rw [hbeat]
    exact ⟨rfl, rfl, rfl, rfl, fun h => hprev (h.resolve_left fun hdata => hdata b rfl)⟩
  · exact absurd rfl hend

/-- Settles O31: the commands it leaves are those that no register influences. -/
theorem registerFreeCommandsReadAndWriteNoRegister : Obligations.RegisterFreeCommandsReadAndWriteNoRegister := by
  intro i hstart hdata hend
  have hfree : chainCommand i = false := by
    cases i with
    | start m d k iv => exact absurd rfl (hstart m d k iv)
    | data b => exact absurd rfl (hdata b)
    | endCall => exact absurd rfl hend
    | _ => rfl
  obtain ⟨o, ho⟩ := effect_of_not_chainCommand i hfree
  exact ⟨o, fun s => by rw [exec_eq_effect, ho]; rfl⟩

/-- Settles O33: the three kinds of cycle. -/
theorem aStepRunsTheDecodedCommand : Obligations.AStepRunsTheDecodedCommand := by
  intro s c rest hin
  refine ⟨step_of_rst s c rest hin, fun hrst hvalid => ?_, fun hrst hvalid => ?_⟩
  · rw [step_cons s c rest hin, kind_of_no_command c hrst hvalid]
    rfl
  · rw [step_cons s c rest hin, kind_of_command c hrst hvalid, exec_eq_effect]
    rfl

/-- Settles O34: the placed word is what `fetch` takes. -/
theorem aPlacedWordIsRunByTheNextStep : Obligations.APlacedWordIsRunByTheNextStep := by
  intro s w
  rw [step, fetch_withFetchWord, Nat.mod_eq_of_lt w.isLt, BitVec.ofNat_toNat, BitVec.setWidth_eq]

/-- Settles O35: with nothing listed `fetch` takes a no-command cycle. -/
theorem pastTheListedCyclesNoCommandIsPresented : Obligations.PastTheListedCyclesNoCommandIsPresented := step_nil

/-- Settles O39: the response of each kind of cycle, and `effect` reads nothing but the registers. -/
theorem everyCommandCycleHasOneLegalResponse : Obligations.EveryCommandCycleHasOneLegalResponse := by
  refine ⟨fun s c rest hin => ?_, fun i s s' hregs => ?_⟩
  · obtain ⟨hnone, hdata⟩ := outputLegal_cycleEffect c.kind s.regs
    refine ⟨_, step_cons s c rest hin, fun ⟨hrst, hvalid⟩ => ?_, fun hno => ?_, hdata, fun n hsub => ?_,
      fun m d k iv hstart => ?_, fun hend => ?_⟩
    · rw [stateOf_out, rspValid_cycleEffect, hrst, hvalid]
      rfl
    · have hinvalid : (cycleEffect c.kind s.regs).2.rspValid = false := by
        rw [rspValid_cycleEffect]
        obtain hrst | hvalid := hno
        · rw [hrst]
          rfl
        · rw [hvalid, Bool.and_false]
      exact ⟨hinvalid, hnone hinvalid⟩
    · rw [stateOf_out, hsub, ← leftNibble_rspData]
      exact leftNibble_rspData_effect_sub n s.regs
    · rw [stateOf_out, hstart]
      exact rspData_effect_start m d k iv s.regs
    · rw [stateOf_out, hend]
      exact rspData_effect_endCall s.regs
  · refine ⟨_, _, exec_eq_effect i s, exec_eq_effect i s', ?_⟩
    rw [hregs]
    exact ⟨rfl, rfl⟩

/-- Settles O40: every cycle has its effect. -/
theorem everyStepGivesANextState : Obligations.EveryStepGivesANextState := fun s => ⟨_, step_eq_cycleEffect s, rfl⟩

/-- Settles O41, by induction on the number of cycles. -/
theorem aRunNeverHaltsAndAnswersEachAcceptedCommand : Obligations.ARunNeverHaltsAndAnswersEachAcceptedCommand :=
  fun k s => ⟨run_drops_cycles k s, length_outputs k s, (length_responses k s).trans (countP_rspValid_outputs k s)⟩

/-! ### The statements about the invariants -/

/-- Settles O42: the reset registers are those the invariant asks for, and the ports hold nothing. -/
theorem theResetStateMeetsTheInvariants : Obligations.TheResetStateMeetsTheInvariants :=
  fun cs => ⟨idleIsReset_reset cs, outputLegal_none⟩

/-- Settles O43: only END closes a call, and it clears every register. -/
theorem everyStepKeepsIdleMeansReset : Obligations.EveryStepKeepsIdleMeansReset :=
  fun _ _ => step_keeps_idleIsReset

/-- Settles O45: a response is OK or has no data, and without one the ports hold nothing. -/
theorem everyStepLeavesLegalOutputs : Obligations.EveryStepLeavesLegalOutputs := by
  intro s t hstep
  rw [eq_stateOf_of_step hstep]
  exact outputLegal_cycleEffect _ s.regs

end Sys2Proof.Proofs
end

section
/-! SUPPORT. A call that is still open and a call written as assembler lines: 70_reset_and_hazards.md R168 and
30_encoding.md R72. -/

namespace Sys2Proof.Proofs

open Sys2Proof Sys2Proof.Machine Sys2Proof.Safety

/-! ### A call that is still open (R168) -/

/-- What a sequence function gives for the first elements does not depend on the later ones. -/
theorem callResult_prefix_append (m : ChainMode) (d : Direction) (k iv : Byte) (bs more : List Byte) :
    callResult m d k iv bs <+: callResult m d k iv (bs ++ more) := by
  induction bs generalizing iv with
  | nil =>
    rw [List.eq_nil_of_length_eq_zero (length_callResult m d k iv [])]
    exact List.nil_prefix
  | cons b bs ih =>
    obtain ⟨x, p, -, hresult⟩ := beat_eq_callResult_head m d k iv b
    rw [List.cons_append, hresult, hresult, List.prefix_cons_inj]
    exact ih p

/-- A START and its beats, from any idle registers: their data is the sequence function, and the call is open. -/
theorem answers_open_call (m : ChainMode) (d : Direction) (k iv : Byte) (bs : List Byte) (r : Regs)
    (hr : r.active = false) :
    (answers (.start m d k iv :: bs.map Instr.data) r).filterMap dataAnswer? = callResult m d k iv bs ∧
      ∃ p, regsAfter (.start m d k iv :: bs.map Instr.data) r = callRegs m d k p := by
  obtain ⟨-, hdata, hregs⟩ := answers_beats m d k iv bs
  rw [answers, regsAfter, List.foldl_cons, effect_start_of_idle m d k iv r hr, List.filterMap_cons_none rfl]
  exact ⟨hdata, hregs⟩

/-! ### A call as assembler lines (R72) -/

theorem chain?_present_encode {i : Instr} (h : chainCommand i = true) :
    (ClockCycle.present (encode i)).chain? = some i :=
  (chain?_eq_some_iff _ i).2 ⟨kind_present_encode i, h⟩

theorem filterMap_chain?_present_encode {is : List Instr} (h : ∀ i ∈ is, chainCommand i = true) :
    (is.map fun i => ClockCycle.present (encode i)).filterMap ClockCycle.chain? = is :=
  calc (is.map fun i => ClockCycle.present (encode i)).filterMap ClockCycle.chain?
    _ = is.filterMap fun i => (ClockCycle.present (encode i)).chain? := List.filterMap_map
    _ = is.filterMap some := List.filterMap_congr fun i hi => chain?_present_encode (h i hi)
    _ = is := List.filterMap_some

theorem chainCommand_of_mem_callCommands {m : ChainMode} {d : Direction} {k iv : Byte} {bs : List Byte} {i : Instr}
    (h : i ∈ callCommands m d k iv bs) : chainCommand i = true := by
  rw [callCommands, List.mem_cons, List.mem_append, List.mem_map, List.mem_singleton] at h
  obtain rfl | ⟨b, -, rfl⟩ | rfl := h <;> rfl

/-- The lines of a call present the commands of the call, one per cycle. -/
theorem map_asmCycle_callLines (m : ChainMode) (d : Direction) {k iv : Nat} {bs : List Nat}
    (hk : isByteValue k = true) (hiv : isByteValue iv = true) (hbs : bs.all isByteValue = true) :
    (callLines m d k iv bs).map asmCycle =
      (callCommands m d (BitVec.ofNat 8 k) (BitVec.ofNat 8 iv) (bs.map (BitVec.ofNat 8))).map
        fun i => ClockCycle.present (encode i) := by
  have hdata : bs.map (fun b => asmCycle (.data b)) =
      bs.map fun b => ClockCycle.present (encode (.data (BitVec.ofNat 8 b))) :=
    List.map_congr_left fun b hb => asmCycle_of_asmWord (asmWord_data (List.all_eq_true.1 hbs b hb))
  simp only [callLines, callCommands, List.map_cons, List.map_append, List.map_map, List.map_nil, Function.comp_def,
    hdata, asmCycle_of_asmWord (asmWord_start m d hk hiv)]
  rfl

/-- One fact about the lines of a call, for all four pseudo-instructions: each expands to one call (R72). -/
theorem callLines_yield_callResult (m : ChainMode) (d : Direction) {k iv : Nat} {bs : List Nat} (s : State)
    (rest : List ClockCycle) (hk : isByteValue k = true) (hiv : isByteValue iv = true)
    (hbs : bs.all isByteValue = true) (hidle : s.regs.active = false)
    (hin : s.inputs = (callLines m d k iv bs).map asmCycle ++ rest) :
    dataResults ((callLines m d k iv bs).map asmCycle) (outputs (callLines m d k iv bs).length s) =
        callResult m d (BitVec.ofNat 8 k) (BitVec.ofNat 8 iv) (bs.map (BitVec.ofNat 8)) ∧
      ∃ t, run (callLines m d k iv bs).length s = .next t ∧ t.regs = Regs.reset ∧ t.inputs = rest := by
  have hcycles := map_asmCycle_callLines m d hk hiv hbs
  have hrst : ∀ c ∈ (callLines m d k iv bs).map asmCycle, c.rst = false := by
    rw [hcycles]
    exact List.forall_mem_map.2 fun _ _ => rfl
  have hchain : ((callLines m d k iv bs).map asmCycle).filterMap ClockCycle.chain? =
      callCommands m d (BitVec.ofNat 8 k) (BitVec.ofNat 8 iv) (bs.map (BitVec.ofNat 8)) := by
    rw [hcycles]
    exact filterMap_chain?_present_encode fun _ => chainCommand_of_mem_callCommands
  obtain ⟨-, -, hdata, -, hrun⟩ := aCallComputesItsSequenceFunction m d _ _ _ _ rest s hidle hin hrst hchain
  rw [List.length_map] at hdata hrun
  exact ⟨hdata, hrun⟩

/-! ### The statements -/

/-- Settles O48: the stream answers as its commands alone do, and those leave the call open. -/
theorem anOpenRunHasDeliveredTheOutputOfItsPrefix : Obligations.AnOpenRunHasDeliveredTheOutputOfItsPrefix := by
  intro m d k iv bs more cs rest s hidle hin hrst hcommands
  obtain ⟨hanswers, t, hrun, hregs, hinputs⟩ := stream_answers cs rest s hin hrst
  obtain ⟨hdata, p, hopen⟩ := answers_open_call m d k iv bs s.regs hidle
  rw [hcommands] at hanswers hregs
  refine ⟨?_, callResult_prefix_append m d k iv bs more, t, hrun, ?_, hinputs⟩
  · rw [dataResults_eq, hanswers, hdata]
  · rw [Complete, hregs, hopen]
    exact nofun

/-- Settles O49: each pseudo-instruction is the lines of one call, of the mode and direction it names. -/
theorem aMacroYieldsItsSourceOperation : Obligations.AMacroYieldsItsSourceOperation := by
  intro mac s rest hwf hidle hin
  cases mac with
  | enci k bs =>
    obtain ⟨hk, hbs⟩ := Bool.and_eq_true_iff.1 hwf
    exact callLines_yield_callResult .independent .encrypt s rest hk rfl hbs hidle hin
  | deci k bs =>
    obtain ⟨hk, hbs⟩ := Bool.and_eq_true_iff.1 hwf
    exact callLines_yield_callResult .independent .decrypt s rest hk rfl hbs hidle hin
  | encc k iv bs =>
    obtain ⟨hkiv, hbs⟩ := Bool.and_eq_true_iff.1 hwf
    obtain ⟨hk, hiv⟩ := Bool.and_eq_true_iff.1 hkiv
    exact callLines_yield_callResult .chained .encrypt s rest hk hiv hbs hidle hin
  | decc k iv bs =>
    obtain ⟨hkiv, hbs⟩ := Bool.and_eq_true_iff.1 hwf
    obtain ⟨hk, hiv⟩ := Bool.and_eq_true_iff.1 hkiv
    exact callLines_yield_callResult .chained .decrypt s rest hk hiv hbs hidle hin

end Sys2Proof.Proofs
end

section
/-! SUPPORT. Commands, registers and cycles with their key put to zero, and 10_state.md R24 and R25: no response shows
a key, and none shows PREV of an open independent call. -/

namespace Sys2Proof.Proofs

open Sys2Proof Sys2Proof.Machine

/-! ### The key erased -/

/-- The registers with KEY put to zero: equal for registers that differ in KEY alone. -/
def eraseKey (r : Regs) : Regs := { r with key := 0x00#8 }

/-- The command with its key field, if it reads one, put to zero. -/
def eraseKeyField : Instr → Instr
  | .sub n => .sub n
  | .perm b => .perm b
  | .encb b _ => .encb b 0x00#8
  | .start m d _ iv => .start m d 0x00#8 iv
  | .data b => .data b
  | .endCall => .endCall
  | .reserved6 => .reserved6
  | .reserved7 => .reserved7

/-- Cycles that differ at most in `cmd[23:16]`. -/
def SameButKeyBits (c c' : ClockCycle) : Prop :=
  c.rst = c'.rst ∧ c.cmdValid = c'.cmdValid ∧ c.cmd &&& 0xFF00FFFF#32 = c'.cmd &&& 0xFF00FFFF#32

/-- The mask puts the key field to zero and keeps every other field (30_encoding.md R61). -/
theorem decode_and_keyMask (w : CmdWord) : decode (w &&& 0xFF00FFFF#32) = eraseKeyField (decode w) := by
  have hmask (i n : Nat) (h : BitVec.extractLsb' i n 0xFF00FFFF#32 = .allOnes n) :
    (w &&& 0xFF00FFFF#32).extractLsb' i n = w.extractLsb' i n := extractLsb'_and_of_allOnes w h
  have hop : opField (w &&& 0xFF00FFFF#32) = opField w := hmask 0 3 (by decide)
  have hmode : modeField (w &&& 0xFF00FFFF#32) = modeField w := hmask 3 1 (by decide)
  have hdir : dirField (w &&& 0xFF00FFFF#32) = dirField w := hmask 4 1 (by decide)
  have hdata : dataField (w &&& 0xFF00FFFF#32) = dataField w := hmask 8 8 (by decide)
  have hiv : ivField (w &&& 0xFF00FFFF#32) = ivField w := hmask 24 8 (by decide)
  have hkey : keyField (w &&& 0xFF00FFFF#32) = 0x00#8 := by
    rw [keyField, BitVec.extractLsb'_and, (by decide : BitVec.extractLsb' 16 8 0xFF00FFFF#32 = 0x00#8),
      BitVec.and_zero]
  obtain h | h | h | h | h | h | h | h := opField_cases w <;>
    simp [decode, hop, hmode, hdir, hdata, hiv, hkey, h, eraseKeyField]

theorem eraseKeyField_decode_congr {w v : CmdWord} (h : w &&& 0xFF00FFFF#32 = v &&& 0xFF00FFFF#32) :
    eraseKeyField (decode w) = eraseKeyField (decode v) := by
  rw [← decode_and_keyMask, ← decode_and_keyMask, h]

/-! ### No response shows a key (R24) -/

/-- With every key at zero a command answers the same, and leaves the same registers but for KEY: the round takes the
key and does not use it (42_round.md R105). -/
theorem effect_eraseKey (i : Instr) (r : Regs) :
    (effect (eraseKeyField i) (eraseKey r)).2 = (effect i r).2 ∧
      eraseKey (effect (eraseKeyField i) (eraseKey r)).1 = eraseKey (effect i r).1 := by
  obtain ⟨active, mode, dir, key, prev⟩ := r
  cases i with
  | sub n =>
    obtain ⟨o, ho⟩ := effect_of_not_chainCommand (.sub n) rfl
    rw [eraseKeyField, ho, ho]
    exact ⟨rfl, rfl⟩
  | perm b => exact ⟨rfl, rfl⟩
  | encb b k => exact ⟨rfl, rfl⟩
  | start m d k iv => cases active <;> exact ⟨rfl, rfl⟩
  | data b =>
    cases active with
    | false => exact ⟨rfl, rfl⟩
    | true => cases mode <;> cases dir <;> exact ⟨rfl, rfl⟩
  | endCall => cases active <;> exact ⟨rfl, rfl⟩
  | reserved6 => exact ⟨rfl, rfl⟩
  | reserved7 => exact ⟨rfl, rfl⟩

theorem effect_eq_of_eraseKey_eq {i j : Instr} {r r' : Regs} (hi : eraseKeyField i = eraseKeyField j)
    (hr : eraseKey r = eraseKey r') :
    (effect i r).2 = (effect j r').2 ∧ eraseKey (effect i r).1 = eraseKey (effect j r').1 := by
  obtain ⟨hout, hregs⟩ := effect_eraseKey i r
  obtain ⟨hout', hregs'⟩ := effect_eraseKey j r'
  rw [hi, hr] at hout hregs
  exact ⟨hout.symm.trans hout', hregs.symm.trans hregs'⟩

theorem cycleEffect_eq_of_sameButKeyBits {c c' : ClockCycle} {r r' : Regs} (hc : SameButKeyBits c c')
    (hr : eraseKey r = eraseKey r') :
    (cycleEffect c.kind r).2 = (cycleEffect c'.kind r').2 ∧
      eraseKey (cycleEffect c.kind r).1 = eraseKey (cycleEffect c'.kind r').1 := by
  obtain ⟨hrst, hvalid, hcmd⟩ := hc
  cases h : c.rst with
  | true =>
    rw [kind_of_rst c h, kind_of_rst c' (hrst ▸ h)]
    exact ⟨rfl, rfl⟩
  | false =>
    cases hv : c.cmdValid with
    | false =>
      rw [kind_of_no_command c h hv, kind_of_no_command c' (hrst ▸ h) (hvalid ▸ hv)]
      exact ⟨rfl, hr⟩
    | true =>
      rw [kind_of_command c h hv, kind_of_command c' (hrst ▸ h) (hvalid ▸ hv)]
      exact effect_eq_of_eraseKey_eq (eraseKeyField_decode_congr hcmd) hr

theorem outputs_eq_of_sameButKeyBits (n : Nat) (s s' : State) (hr : eraseKey s.regs = eraseKey s'.regs)
    (hin : List.Forall₂ SameButKeyBits s.inputs s'.inputs) : outputs n s = outputs n s' := by
  induction n generalizing s s' with
  | zero => rfl
  | succ n ih =>
    cases hs : s.inputs with
    | nil =>
      rw [hs, List.forall₂_nil_left_iff] at hin
      rw [outputs_nil _ s hs, outputs_nil _ s' hin]
    | cons c rest =>
      rw [hs, List.forall₂_cons_left_iff] at hin
      obtain ⟨c', rest', hc, hrest, hs'⟩ := hin
      obtain ⟨hout, hregs⟩ := cycleEffect_eq_of_sameButKeyBits hc hr
      rw [outputs_cons n s c rest hs, outputs_cons n s' c' rest' hs', hout,
        ih (stateOf _ rest) (stateOf _ rest') hregs hrest]

/-! ### The statements of 10_state.md -/

/-- Settles O57: what a cycle answers, and the registers it leaves but for KEY, are those with every key at zero. -/
theorem noResponseDependsOnAnyKey : Obligations.NoResponseDependsOnAnyKey := by
  intro s s' k n hregs hin
  exact outputs_eq_of_sameButKeyBits n s s' (by rw [hregs]; rfl) hin

/-- Settles O58: PREV stays hidden until END or a reset clears it. -/
theorem prevIsUnobservableInIndependentMode : Obligations.PrevIsUnobservableInIndependentMode := by
  intro s s' p n hactive hmode hregs hin
  exact outputs_eq_of_sameButHiddenPrev n s s' (.inr ⟨hactive, hmode, p, hregs⟩) hin.symm

end Sys2Proof.Proofs
end
